-- ==== Sys2Proof/Word.lean ====
section
/-! DEFINITION. The word types of YM-TB (00_scope.md R8, R10; 10_state.md R20). Bit vectors stand only for what the spec
treats as bits of a fixed number: bus words, the command word and the packed registers. What a parameter sizes (`HOLD`, `PULSE`, the input
ports) is a number, and its width is an argument (Sys2Proof/Config.lean). -/

namespace Sys2Proof

/-- One byte lane of the host bus (20_memory.md R68). -/
abbrev Byte := BitVec 8

/-- A 32-bit bus word, a command word, and the packed uptime (20_memory.md R60, 30_encoding.md R90, 10_state.md R21). -/
abbrev Word := BitVec 32

/-- The packed fermentation timer, hours:minutes (10_state.md R27). -/
abbrev TimerWord := BitVec 16

/-- The trigger phase, a seconds value (10_state.md R29). -/
abbrev PhaseWord := BitVec 6

/-- A value of the 9-bit ticks field, the argument of FANOUT (44_dispatcher.md R246). -/
abbrev TickWord := BitVec 9

end Sys2Proof
end

