-- ==== Sys2Proof/Syntax.lean ====
section
/-! DEFINITION. The commands of YM-TB: one constructor per row of spec/opcode_table.json (30_encoding.md R94). -/

namespace Sys2Proof

/-- A command of the opcode map (30_encoding.md R94). `RSV`, and `IMM16` outside FT_START, are ignored bits (R92, R93): they are no
part of a command. -/
inductive Instr where
  /-- NOP, `OPC` 0x00 (44_dispatcher.md R250). -/
  | nop
  /-- TICK, `OPC` 0x01 (44_dispatcher.md R240). -/
  | tick
  /-- CLK_RESET, `OPC` 0x02 (40_clock.md R128). -/
  | clkReset
  /-- FT_START, `OPC` 0x03, with its unsigned duration in hours (41_fermentation_timer.md R150; 30_encoding.md R95). -/
  | ftStart (durationHours : Nat)
  /-- FT_STOP, `OPC` 0x04 (41_fermentation_timer.md R153). -/
  | ftStop
  /-- RLY_ENABLE, `OPC` 0x05 (42_relay_controller.md R194). -/
  | rlyEnable
  /-- RLY_DISABLE, `OPC` 0x06 (42_relay_controller.md R195). -/
  | rlyDisable
deriving DecidableEq, Repr

end Sys2Proof
end

