-- ==== Sys2Proof/WellFormed.lean ====
section
/-! DEFINITION. Which terms of `Instr` are commands of the spec: those whose operand fits its field. -/

namespace Sys2Proof

/-- The operand of FT_START is an unsigned integer in 0..65535 (30_encoding.md R95, R101); no other command has one (R94). -/
def Instr.wellFormed : Instr → Bool
  | .nop => true
  | .tick => true
  | .clkReset => true
  | .ftStart d => decide (d ≤ 65535)
  | .ftStop => true
  | .rlyEnable => true
  | .rlyDisable => true

end Sys2Proof
end

