-- ==== Sys2Proof/Decode.lean ====
section
/-! DEFINITION. Bit fields and byte lanes (00_scope.md R10, R13; 20_memory.md R68), the command decoder and, after it, the encoder
(30_encoding.md R90 to R100). -/

namespace Sys2Proof

/-- The field of `v` of `w` bits whose lowest bit is `lo`, read as an unsigned number (00_scope.md R10). -/
def field {n : Nat} (v : BitVec n) (lo w : Nat) : Nat := v.toNat / 2 ^ lo % 2 ^ w

/-- `v` with its field of `w` bits at `lo` replaced by `x mod 2^w`; every other bit stays (00_scope.md R11, R13). The three
summands are the bits above the field, the field, and the bits below it. -/
def setField {n : Nat} (v : BitVec n) (lo w x : Nat) : BitVec n :=
  BitVec.ofNat n (v.toNat / 2 ^ (lo + w) * 2 ^ (lo + w) + x % 2 ^ w * 2 ^ lo + v.toNat % 2 ^ lo)

/-- Byte lane `k` of a word carries bits `[8k+7:8k]` (20_memory.md R68). -/
def laneByte (v : Word) (k : Nat) : Byte := BitVec.ofNat 8 (field v (8 * k) 8)

/-- The four byte lanes of a word, lane 0 first. -/
def wordLanes (v : Word) : List Byte := [laneByte v 0, laneByte v 1, laneByte v 2, laneByte v 3]

/-- The word whose byte lanes are `b0` (lowest) to `b3` (20_memory.md R68). -/
def wordOfLanes (b0 b1 b2 b3 : Byte) : Word :=
  BitVec.ofNat 32 (b0.toNat + b1.toNat * 2 ^ 8 + b2.toNat * 2 ^ 16 + b3.toNat * 2 ^ 24)

/-- What a command word asks for: one of the seven operations, or no operation because its opcode is reserved
(30_encoding.md R96, R98, R100). -/
inductive Decoded where
  | op (i : Instr)
  | noOperation (opcode : Nat)
deriving DecidableEq, Repr

/-- Why a byte string holds no command word: it is shorter than the 4 bytes every command takes (30_encoding.md R100). -/
inductive DecodeError where
  | truncated
deriving DecidableEq, Repr

/-- `OPC` = bits [31:24] (30_encoding.md R90, R91). -/
def opcodeOf (w : Word) : Nat := field w 24 8

/-- `IMM16` = bits [15:0] (30_encoding.md R90, R93). -/
def imm16Of (w : Word) : Nat := field w 0 16

/-- The decoder, total on words (30_encoding.md R96, R98, R100). -/
def decode (w : Word) : Decoded :=
  match opcodeOf w with
  | 0x00 => .op .nop
  | 0x01 => .op .tick
  | 0x02 => .op .clkReset
  | 0x03 => .op (.ftStart (imm16Of w))
  | 0x04 => .op .ftStop
  | 0x05 => .op .rlyEnable
  | 0x06 => .op .rlyDisable
  | opc => .noOperation opc

/-- The decoder on bytes in lane order, with the bytes it leaves (20_memory.md R68, 30_encoding.md R100). -/
def decodeBytes : List Byte → Except DecodeError (Decoded × List Byte)
  | b0 :: b1 :: b2 :: b3 :: rest => .ok (decode (wordOfLanes b0 b1 b2 b3), rest)
  | _ => .error .truncated

/-- The instruction the decoder reads from a table word of `nbits` bits (the bits above are zero), laid out in byte lanes;
none for a reserved opcode. -/
def decodeTableWord (nbits w : Nat) : Option Instr :=
  match decodeBytes (wordLanes (BitVec.ofNat 32 (w % 2 ^ nbits))) with
  | .ok (.op i, _) => some i
  | .ok (.noOperation _, _) => none
  | .error _ => none

/-! ### The encoder -/

/-- The opcode of a command (30_encoding.md R94). -/
def opcodeFor : Instr → Nat
  | .nop => 0x00
  | .tick => 0x01
  | .clkReset => 0x02
  | .ftStart _ => 0x03
  | .ftStop => 0x04
  | .rlyEnable => 0x05
  | .rlyDisable => 0x06

/-- The `IMM16` field of a command: the duration for FT_START, 0 for every other (30_encoding.md R93, R101). -/
def operandFor : Instr → Nat
  | .ftStart d => d
  | .nop => 0
  | .tick => 0
  | .clkReset => 0
  | .ftStop => 0
  | .rlyEnable => 0
  | .rlyDisable => 0

/-- The canonical command word: `RSV` = 0 (30_encoding.md R90, R92, R94). -/
def encode (i : Instr) : Word := setField (setField 0 24 8 (opcodeFor i)) 0 16 (operandFor i)

/-- The canonical command as bytes in lane order. -/
def encodeBytes (i : Instr) : List Byte := wordLanes (encode i)

end Sys2Proof
end

