-- ==== Sys2Proof/Config.lean ====
section
/-! DEFINITION. The implementation parameters of 00_scope.md R8 as plain data. The values this hardware takes stand in
Sys2Proof/Machine/Parameters.lean. -/

namespace Sys2Proof

/-- What the fan-out of a TICK may select (44_dispatcher.md R245, R246). -/
inductive Task where
  | none
  | ui
  | sensor
  | relay
deriving DecidableEq, Repr

/-- One row of a fan-out table: it selects `task` for every ticks value `t` with `t AND mask = residue`. The source asks for
"a small ordered table mapping tick-count residues to actions" (44_dispatcher.md R246). -/
structure FanRow where
  mask : TickWord
  residue : TickWord
  task : Task
deriving DecidableEq, Repr

/-- The parameters of 00_scope.md R8, every one a configuration argument. `fTick` is informative: no rule reads it. -/
structure Params where
  /-- `TPS`, legal in 1..511 (R8, R9). -/
  tps : Nat
  /-- `F_TICK` in Hz (R8). -/
  fTick : Nat
  /-- `BUZZER`: the extended variant is present (R8). -/
  buzzer : Bool
  /-- `FANOUT` as an ordered table (R8, R246); a value no row matches selects nothing. -/
  fanout : List FanRow
  /-- `IN_W`, the width of the signed input ports (R8, R10). -/
  inW : Nat
  /-- `HOLD_W`, the width of `HOLD` (R8, 10_state.md R33). -/
  holdW : Nat
  /-- `PULSE_W`, the width of `PULSE` (R8, 10_state.md R34). -/
  pulseW : Nat
  /-- `HYST_SHIFT` (R8, R182). -/
  hystShift : Nat
  /-- `DELAY_SHIFT` (R8, R183). -/
  delayShift : Nat
  /-- `BZ_SETTLE_END` (R8, R220). -/
  bzSettleEnd : Nat
  /-- `BZ_BUZZ_END` (R8, R220). -/
  bzBuzzEnd : Nat
  /-- `BZ_CYCLE_END` (R8, R220). -/
  bzCycleEnd : Nat
  /-- `BASE`, the bus address of the register window; the spec leaves it OPEN (R8, 20_memory.md R60). -/
  base : Nat
deriving DecidableEq, Repr

/-- A configuration the spec gives a meaning: `TPS` in 1..511 (00_scope.md R9, D11). -/
def Params.legal (c : Params) : Bool := decide (1 ≤ c.tps ∧ c.tps ≤ 511)

/-- What a legal configuration says of `TPS`. -/
theorem Params.legal_iff (c : Params) : c.legal = true ↔ 1 ≤ c.tps ∧ c.tps ≤ 511 := decide_eq_true_iff

end Sys2Proof
end

