-- ==== Sys2Proof/Machine/Parameters.lean ====
section
/-! DEFINITION. The values this hardware gives the parameters of 00_scope.md R8, and the fan-out lookup of 44_dispatcher.md R246. -/

namespace Sys2Proof.Machine

/-- The fan-out table this hardware takes, in the order it is tested (44_dispatcher.md R246, D12; the spec itself calls these masks
general knowledge: assumption log 5). -/
def hardwareFanout : List FanRow :=
  [ ⟨0x00F, 0x001, .ui⟩,
    ⟨0x0FF, 0x002, .sensor⟩,
    ⟨0x0FF, 0x003, .relay⟩ ]

/-- The parameter values of 00_scope.md R8 for a variant (`buzzer`) at a bus address (`base`): both variants are this hardware, and
`BASE` is OPEN. -/
def hardwareParams (buzzer : Bool) (base : Nat) : Params where
  tps := 500
  fTick := 500
  buzzer := buzzer
  fanout := hardwareFanout
  inW := 16
  holdW := 16
  pulseW := 16
  hystShift := 3
  delayShift := 7
  bzSettleEnd := 6000
  bzBuzzEnd := 6010
  bzCycleEnd := 6070
  base := base

/-- FANOUT: the task of the first row that matches the ticks value, none otherwise (44_dispatcher.md R245, R246). -/
def fanOut : List FanRow → TickWord → Task
  | [], _ => .none
  | row :: rows, t => if t &&& row.mask = row.residue then row.task else fanOut rows t

end Sys2Proof.Machine
end

