-- ==== Sys2Proof/Machine/State.lean ====
section
/-! DEFINITION. The state of the block (10_state.md R20), its ports (R36, R37), the requests that reach it from outside, the reasons a
step can stop, and the machine right after power-on reset (R40, 70_reset_and_hazards.md R300). -/

namespace Sys2Proof.Machine

/-- The one-shot event strobes (10_state.md R37). -/
inductive Event where
  /-- `ev_ferm_complete` -/
  | fermComplete
  /-- `ev_ui_refresh` -/
  | uiRefresh
  /-- `ev_sensor_start` -/
  | sensorStart
deriving DecidableEq, Repr

/-- What the input providers drive on the input ports (10_state.md R36), as integers. A relay invocation samples the `IN_W` bits a port shows
of its integer (Sys2Proof/Machine/Operands.lean; assumption log 4). -/
structure Ports where
  /-- `TEMP`, signed -/
  temp : Int
  /-- `THR`, signed -/
  thr : Int
  /-- `HYST`, signed -/
  hyst : Int
  /-- `DELAY`, signed -/
  delay : Int
  /-- `MODE` -/
  mode : Bool
deriving DecidableEq, Repr

/-- The width of a bus access; only `word` is admitted (20_memory.md R66). -/
inductive AccessSize where
  | byte
  | half
  | word
deriving DecidableEq, Repr

/-- A host bus access at a bus address (20_memory.md R60; 10_state.md R39; 00_scope.md R12). -/
inductive Access where
  | read (addr : Nat) (size : AccessSize)
  | write (addr : Nat) (size : AccessSize) (data : Word)
deriving DecidableEq, Repr

/-- What reaches the block from outside (10_state.md R36 to R39; assumption log 1). -/
inductive Arrival where
  /-- a pulse of `tick_in` (R38) -/
  | tickIn
  /-- a host bus access (R39) -/
  | access (a : Access)
  /-- a pulse of `tick_in` and a host access at the same instant (60_exceptions.md R275) -/
  | tickInWith (a : Access)
  /-- the input providers drive new levels (R36) -/
  | drive (p : Ports)
  /-- the level of `rst_n` (R36, 70_reset_and_hazards.md R300) -/
  | resetPin (level : Bool)
deriving DecidableEq, Repr

/-- The machine: the eight registers of 10_state.md R20, the levels on the input pins, the configuration (which no step changes), and
the model's own record of the outside world: what is still to arrive, and what the last step put out. -/
structure State where
  /-- `UP` (R21) -/
  up : Word
  /-- `FT` (R27) -/
  ft : TimerWord
  /-- `PHASE` (R29) -/
  phase : PhaseWord
  /-- `ENABLED` (R31) -/
  enabled : Bool
  /-- `ACTIVE` (R32) -/
  active : Bool
  /-- `HOLD` (R33), a count below 2^`HOLD_W` in every state a run reaches (assumption log 4) -/
  hold : Nat
  /-- `PULSE` (R34), a count below 2^`PULSE_W` in every state a run reaches (assumption log 4); absent, and then never written and read
  as 0, when `BUZZER` = false (assumption log 11) -/
  pulse : Nat
  /-- `OUT`, the level of `relay_out` (R35) -/
  out : Bool
  /-- the levels on the input ports (R36; assumption log 9) -/
  ports : Ports
  /-- the level of `rst_n` (R36) -/
  rstN : Bool
  /-- the parameters of 00_scope.md R8 (assumption log 3) -/
  cfg : Params
  /-- what is still to arrive, in the total order of 20_memory.md R71 (assumption log 1) -/
  inbox : List Arrival
  /-- the strobes the last step fired, in order (R37; assumption log 7) -/
  events : List Event
  /-- what the last step answered on the bus, if it served a read (R39; assumption log 7) -/
  readData : Option Word
deriving DecidableEq, Repr

/-- Where the machine stops because an access is outside what the spec describes. -/
inductive Fault where
  /-- Raised by a bus access at an address outside `BASE` .. `BASE`+0x3F, which the block does not decode (20_memory.md R60).
  Safe: the model stops, and claims nothing of it (assumption log 8). -/
  | outsideWindow
deriving DecidableEq, Repr

/-- What the spec itself refuses ("a model gives it no step"). -/
inductive Refusal where
  /-- Raised by `exec` for an instruction that has no meaning yet. Safe. No arm of this model raises it. -/
  | notModelled (mnemonic : String)
  /-- Raised by every operation under a configuration with `TPS` outside 1..511 (00_scope.md R9). Safe: the spec gives it no
  meaning. -/
  | tpsOutOfRange
  /-- Raised by an 8-bit or 16-bit bus access (20_memory.md R66). Safe: the spec gives it no step. -/
  | narrowAccess
  /-- Raised by a bus access at an offset that is no multiple of 4 (20_memory.md R67). Safe: the spec gives it no step. -/
  | misalignedAccess
deriving DecidableEq, Repr

/-- The block of configuration `c` right after power-on reset, with levels `p` on its input ports and nothing arriving: every
register 0, no strobe (10_state.md R40, 70_reset_and_hazards.md R300). -/
def State.powerOn (c : Params) (p : Ports) : State where
  up := 0
  ft := 0
  phase := 0
  enabled := false
  active := false
  hold := 0
  pulse := 0
  out := false
  ports := p
  rstN := true
  cfg := c
  inbox := []
  events := []
  readData := none

/-- All input levels 0 (95_test_vectors.md P1 reads `MODE` = 0 "from the reset inputs"; assumption log 9). -/
def Ports.zero : Ports where
  temp := 0
  thr := 0
  hyst := 0
  delay := 0
  mode := false

/-- The machine right after reset: the basic variant with its window at address 0 and all input levels 0 (10_state.md R40;
assumption logs 3, 6 and 9; `State.powerOn` is the same for every configuration and every input level). -/
def State.reset : State := State.powerOn (hardwareParams false 0) Ports.zero

end Sys2Proof.Machine
end

