-- ==== Sys2Proof/Machine/Ops.lean ====
section
/-! DEFINITION. The named operations every meaning shares: the start of an operation, the sequencer's gate, power-on reset, and the
fields of the packed registers. The block raises no exception (60_exceptions.md R270) and a TICK saves and restores nothing (R274), so
there is no exception entry and no return to model. -/

namespace Sys2Proof.Machine

/-- The outcome type of every operation. -/
abbrev Result := Host.Outcome State Fault Refusal

/-- The state at the start of a step: no strobe fired yet and nothing answered on the bus (10_state.md R37; assumption log 7). -/
def State.quiet (s : State) : State := { s with events := [], readData := none }

/-- Fires a strobe once, after the ones this operation fired before (`emit`, 00_scope.md R12; 10_state.md R37). -/
def emit (e : Event) (s : State) : State := { s with events := s.events ++ [e] }

/-- Every register at its reset value (10_state.md R40). The ports, the configuration and the requests still to come are outside the
block and stay. -/
def resetRegisters (s : State) : State :=
  { s with up := 0, ft := 0, phase := 0, enabled := false, active := false, hold := 0, pulse := 0, out := false }

/-- The block sequencer performs one operation, whole (00_scope.md R3, 20_memory.md R69). Under an illegal configuration it has no
meaning (R9); while `rst_n` is low the request is dropped (70_reset_and_hazards.md R300). -/
def operate (f : State → State) (s : State) : Result :=
  if s.cfg.legal then
    if s.rstN then .next (f s.quiet) else .next s.quiet
  else .refused .tpsOutOfRange

/-- The `rst_n` pin takes a level (70_reset_and_hazards.md R300). Every register holds its reset value while the pin is low and when
it goes high (assumption log 14); a high level on a pin that is high already is no reset. -/
def setResetPin (level : Bool) (s : State) : State :=
  if level && s.rstN then s.quiet else { resetRegisters s.quiet with rstN := level }

/-- A register of `w` bits after an increment: the increment wraps modulo 2^`w` (00_scope.md R11; 10_state.md R33, R34). -/
def increment (w n : Nat) : Nat := (n + 1) % 2 ^ w

/-! ### Fields of `UP` and `FT` (10_state.md R21, R27; 00_scope.md R13) -/

/-- `UP.TICKS` = `UP[8:0]`. -/
def upTicks (up : Word) : Nat := field up 0 9
/-- `UP.SECONDS` = `UP[14:9]`. -/
def upSeconds (up : Word) : Nat := field up 9 6
/-- `UP.MINUTES` = `UP[20:15]`. -/
def upMinutes (up : Word) : Nat := field up 15 6
/-- `UP.HOURS` = `UP[25:21]`. -/
def upHours (up : Word) : Nat := field up 21 5
/-- `UP.DAYS` = `UP[31:26]`. -/
def upDays (up : Word) : Nat := field up 26 6
/-- `FT.MINUTES` = `FT[5:0]`. -/
def ftMinutes (ft : TimerWord) : Nat := field ft 0 6
/-- `FT.HOURS` = `FT[15:6]`. -/
def ftHours (ft : TimerWord) : Nat := field ft 6 10

end Sys2Proof.Machine
end

