-- ==== Sys2Proof/Machine/Flags.lean ====
section
/-! DEFINITION. The status bits (10_state.md R28, R41) and the STATUS word (20_memory.md R62). The block has no condition codes. -/

namespace Sys2Proof.Machine

/-- `FT_ACTIVE` = (`FT` ≠ 0), computed whenever it is read (10_state.md R28). -/
def ftActive (ft : TimerWord) : Bool := decide (ft ≠ 0)

/-- `BUZZER_PRESENT` = `BUZZER` (10_state.md R41). -/
def buzzerPresent (s : State) : Bool := s.cfg.buzzer

/-- The level of `relay_out`, `OUT` at all times (10_state.md R35). -/
def relayOut (s : State) : Bool := s.out

/-- The STATUS register: bits 0 to 4 as R62 lays them out, bits [31:5] zero (20_memory.md R62). -/
def statusWord (s : State) : Word :=
  BitVec.ofNat 32
    (s.enabled.toNat + 2 * s.active.toNat + 4 * (relayOut s).toNat + 8 * (ftActive s.ft).toNat
      + 16 * (buzzerPresent s).toNat)

end Sys2Proof.Machine
end

