-- ==== Sys2Proof/Machine/Bus.lean ====
section
/-! DEFINITION. The register window: its map, which accesses are admitted, and what a read answers (20_memory.md R60 to R68). Every window
byte is computed from the registers; no memory is stored (assumption log 10). -/

namespace Sys2Proof.Machine

/-- The sixteen registers of the window (20_memory.md R61). -/
inductive RegName where
  | uptime
  | ftimer
  | ftphase
  | status
  | hold
  | pulse
  | cmd
  | reserved1C
  | upTicks
  | upSeconds
  | upMinutes
  | upHours
  | upDays
  | ftHours
  | ftMinutes
  | reserved3C
deriving DecidableEq, Repr

/-- The byte offset of a register (20_memory.md R61). -/
def offsetOf : RegName → Nat
  | .uptime => 0x00
  | .ftimer => 0x04
  | .ftphase => 0x08
  | .status => 0x0C
  | .hold => 0x10
  | .pulse => 0x14
  | .cmd => 0x18
  | .reserved1C => 0x1C
  | .upTicks => 0x20
  | .upSeconds => 0x24
  | .upMinutes => 0x28
  | .upHours => 0x2C
  | .upDays => 0x30
  | .ftHours => 0x34
  | .ftMinutes => 0x38
  | .reserved3C => 0x3C

/-- The register that holds the byte at an offset below 0x40 (20_memory.md R61). -/
def regAt (off : Nat) : RegName :=
  match off / 4 with
  | 0 => .uptime
  | 1 => .ftimer
  | 2 => .ftphase
  | 3 => .status
  | 4 => .hold
  | 5 => .pulse
  | 6 => .cmd
  | 7 => .reserved1C
  | 8 => .upTicks
  | 9 => .upSeconds
  | 10 => .upMinutes
  | 11 => .upHours
  | 12 => .upDays
  | 13 => .ftHours
  | 14 => .ftMinutes
  | _ => .reserved3C

/-- A count on the bus: bits [15:0] hold it and bits [31:16] are 0, whatever its width (20_memory.md R61; assumption log 4). -/
def countWord (n : Nat) : Word := BitVec.ofNat 32 (n % 2 ^ 16)

/-- The content of a window register; every field accessor is zero-extended, `CMD` and the reserved offsets read 0, and `PULSE` reads 0
in the basic variant (20_memory.md R61, R63; 10_state.md R34). -/
def registerValue (r : RegName) (s : State) : Word :=
  match r with
  | .uptime => s.up
  | .ftimer => s.ft.setWidth 32
  | .ftphase => s.phase.setWidth 32
  | .status => statusWord s
  | .hold => countWord s.hold
  | .pulse => if s.cfg.buzzer then countWord s.pulse else 0
  | .cmd => 0
  | .reserved1C => 0
  | .upTicks => BitVec.ofNat 32 (Sys2Proof.Machine.upTicks s.up)
  | .upSeconds => BitVec.ofNat 32 (Sys2Proof.Machine.upSeconds s.up)
  | .upMinutes => BitVec.ofNat 32 (Sys2Proof.Machine.upMinutes s.up)
  | .upHours => BitVec.ofNat 32 (Sys2Proof.Machine.upHours s.up)
  | .upDays => BitVec.ofNat 32 (Sys2Proof.Machine.upDays s.up)
  | .ftHours => BitVec.ofNat 32 (Sys2Proof.Machine.ftHours s.ft)
  | .ftMinutes => BitVec.ofNat 32 (Sys2Proof.Machine.ftMinutes s.ft)
  | .reserved3C => 0

/-- What a read of a register answers: its content, or its content at reset while `rst_n` is low (20_memory.md R69;
70_reset_and_hazards.md R300). -/
def readRegister (r : RegName) (s : State) : Word :=
  if s.rstN then registerValue r s else registerValue r (resetRegisters s)

/-- The offset of a bus address in the window, none where the block does not decode it (20_memory.md R60). -/
def windowOffset (c : Params) (addr : Nat) : Option Nat :=
  if c.base ≤ addr ∧ addr < c.base + 64 then some (addr - c.base) else none

/-- The byte the block presents at a bus address: lane `k` of the register there (20_memory.md R60, R68), none outside the window. A
view: the bus admits whole words only (R66). -/
def readByte (s : State) (addr : Nat) : Option Byte :=
  (windowOffset s.cfg addr).map fun off => laneByte (readRegister (regAt off) s) (off % 4)

/-- Admits a bus access: in the window (20_memory.md R60), a full word (R66), aligned (R67), in this order; then `k` serves it at its
offset. -/
def admitAccess (addr : Nat) (size : AccessSize) (s : State) (k : Nat → Result) : Result :=
  match windowOffset s.cfg addr with
  | none => .fault .outsideWindow
  | some off =>
    if size = .word then
      if off % 4 = 0 then k off else .refused .misalignedAccess
    else .refused .narrowAccess

/-- MemRead: the register's value on the bus, and no other effect (20_memory.md R63, R64, R69). -/
def busRead (addr : Nat) (size : AccessSize) (s : State) : Result :=
  admitAccess addr size s fun off => .next { s.quiet with readData := some (readRegister (regAt off) s) }

end Sys2Proof.Machine
end

