-- ==== Sys2Proof/Machine/Clock.lean ====
section
/-! DEFINITION. Clock/Timebase: ADVANCE and CLK_RESET (40_clock.md). -/

namespace Sys2Proof.Machine

/-- One unit of days onto the word, mod 2^32, after the hours field reached 24 and was cleared (40_clock.md R124, R125). -/
def carryHours (up : Word) : Word :=
  let u := up + 0x00200000#32
  if upHours u = 24 then setField u 21 5 0 + 0x04000000#32 else u

/-- One unit of minutes onto the word; at 60 the field is cleared and one unit of hours follows (40_clock.md R123). -/
def carryMinutes (up : Word) : Word :=
  let u := up + 0x00008000#32
  if upMinutes u = 60 then carryHours (setField u 15 6 0) else u

/-- One unit of seconds onto the word; at 60 the field is cleared and one unit of minutes follows (40_clock.md R122). -/
def carrySeconds (up : Word) : Word :=
  let u := up + 0x00000200#32
  if upSeconds u = 60 then carryMinutes (setField u 9 6 0) else u

/-- ADVANCE: the new `UP` and `sec_carry` (40_clock.md R120, R121). Every "add one unit" is an add on the whole word, so the function is
total on unreachable encodings too (R126, D45). -/
def advance (tps : Nat) (up : Word) : Word × Bool :=
  let t := upTicks up + 1
  if tps ≤ t then (carrySeconds (setField up 0 9 0), true) else (setField up 0 9 t, false)

/-- CLK_RESET: `UP <- 0` and nothing else (40_clock.md R128, D32). -/
def clearUptime (s : State) : State := { s with up := 0 }

/-- The meaning of CLK_RESET (40_clock.md R128). -/
def execClkReset (s : State) : Result := operate clearUptime s

end Sys2Proof.Machine
end

