-- ==== Sys2Proof/Machine/Operands.lean ====
section
/-! DEFINITION. The operands: FT_START's duration (30_encoding.md R95) and the inputs a relay invocation samples, with the two exact
scalings (42_relay_controller.md R180, R182, R183). -/

namespace Sys2Proof.Machine

/-- The hours FT_START stores: `(durationHours - 1) mod 1024`, on integers, so that a duration of 0 stores 1023
(41_fermentation_timer.md R150, R151, D27). -/
def startHours (durationHours : Nat) : Nat := (((durationHours : Int) - 1) % 1024).toNat

/-- The value FT_START writes to `FT`: `(h << 6) | 59` (41_fermentation_timer.md R150). -/
def startValue (durationHours : Nat) : TimerWord :=
  setField (setField 0 6 10 (startHours durationHours)) 0 6 59

/-- What an input port of `w` bits shows of the integer driven on it, read as two's complement (00_scope.md R8, R10). -/
def signedLevel (w : Nat) (x : Int) : Int := (BitVec.ofInt w x).toInt

/-- The sample of `TEMP` (42_relay_controller.md R180). -/
def tempSample (c : Params) (p : Ports) : Int := signedLevel c.inW p.temp
/-- The sample of `THR`. -/
def thrSample (c : Params) (p : Ports) : Int := signedLevel c.inW p.thr
/-- The sample of `HYST`. -/
def hystSample (c : Params) (p : Ports) : Int := signedLevel c.inW p.hyst
/-- The sample of `DELAY`. -/
def delaySample (c : Params) (p : Ports) : Int := signedLevel c.inW p.delay

/-- The band offset `HYST >> HYST_SHIFT`: the floor of the quotient, for negative values too (42_relay_controller.md R182, D15; the
divisor is positive, so `/` on `Int` is the floor). -/
def bandOffset (c : Params) (p : Ports) : Int := hystSample c p / 2 ^ c.hystShift

/-- The hold limit `DELAY << DELAY_SHIFT`, exact (42_relay_controller.md R183, D16). -/
def holdLimit (c : Params) (p : Ports) : Int := delaySample c p * 2 ^ c.delayShift

/-- Out of band for an active controller: the strict `TEMP < THR - b` (42_relay_controller.md R184). -/
def belowBand (c : Params) (p : Ports) : Bool := decide (tempSample c p < thrSample c p - bandOffset c p)

/-- Out of band for an inactive controller: the strict `TEMP > THR + b` (42_relay_controller.md R187). -/
def aboveBand (c : Params) (p : Ports) : Bool := decide (thrSample c p + bandOffset c p < tempSample c p)

end Sys2Proof.Machine
end

