-- ==== Sys2Proof/Machine/FermentationTimer.lean ====
section
/-! DEFINITION. Fermentation Timer: FT_START, FT_STOP and FT_TICK (41_fermentation_timer.md). -/

namespace Sys2Proof.Machine

/-- FT_START: `FT` and `PHASE` are written whatever they held; nothing else (41_fermentation_timer.md R150 to R152, D28, D31). -/
def startTimer (durationHours : Nat) (s : State) : State :=
  { s with ft := startValue durationHours, phase := BitVec.ofNat 6 (upSeconds s.up) }

/-- FT_STOP: `FT <- 0` and nothing else, without an event (41_fermentation_timer.md R153, D29). -/
def stopTimer (s : State) : State := { s with ft := 0 }

/-- One decrement of a timer that is not zero: a minute off, or an hour borrowed for 59 minutes (41_fermentation_timer.md R154). -/
def decrementTimer (ft : TimerWord) : TimerWord :=
  if 0 < ftMinutes ft then setField ft 0 6 (ftMinutes ft - 1)
  else setField (setField ft 6 10 (ftHours ft - 1)) 0 6 59

/-- FT_TICK(sec): the new `FT` and `expired`. It acts only on an active timer whose phase matches (41_fermentation_timer.md R154, R156,
R157). -/
def ftTick (ft : TimerWord) (phase : PhaseWord) (sec : Nat) : TimerWord × Bool :=
  if ft ≠ 0 ∧ sec = phase.toNat then (decrementTimer ft, decide (decrementTimer ft = 0)) else (ft, false)

/-- The meaning of FT_START (41_fermentation_timer.md R150). -/
def execFtStart (durationHours : Nat) (s : State) : Result := operate (startTimer durationHours) s

/-- The meaning of FT_STOP (41_fermentation_timer.md R153). -/
def execFtStop (s : State) : Result := operate stopTimer s

end Sys2Proof.Machine
end

