-- ==== Sys2Proof/Machine/Buzzer.lean ====
section
/-! DEFINITION. Buzzer Simulator, the extended variant: BUZZER_STEP (43_buzzer.md). -/

namespace Sys2Proof.Machine

/-- The level BUZZER_STEP drives at pulse count `n`: the idle level `m` in the settle and cooldown phases, the inverted latch in the
buzz phase (43_buzzer.md R220, R222, R225). -/
def buzzerLevel (c : Params) (n : Nat) (m out : Bool) : Bool :=
  if n ≤ c.bzSettleEnd then m else if n ≤ c.bzBuzzEnd then !out else m

/-- BUZZER_STEP(m): count this invocation, drive the phase's level, and clear the count at the end of the cycle (43_buzzer.md R220,
R221, R223). `ENABLED`, `ACTIVE` and `HOLD` are not written (R226). -/
def buzzerStep (m : Bool) (s : State) : State :=
  let n := increment s.cfg.pulseW s.pulse
  { s with
    pulse := if s.cfg.bzCycleEnd ≤ n then 0 else n
    out := buzzerLevel s.cfg n m s.out }

end Sys2Proof.Machine
end

