-- ==== Sys2Proof/Machine/Relay.lean ====
section
/-! DEFINITION. Relay Controller: RELAY_INVOKE, RLY_ENABLE and RLY_DISABLE (42_relay_controller.md). -/

namespace Sys2Proof.Machine

/-- The hysteresis algorithm of an enabled controller (42_relay_controller.md R180, R184 to R191): out of band, the hold count rises by
one mod 2^`HOLD_W` and a count above the limit commits the flip; in band, the count is cleared. A commit does not clear it (R190). -/
def hysteresis (s : State) : State :=
  let m := s.ports.mode
  let held := increment s.cfg.holdW s.hold
  let commits := decide (holdLimit s.cfg s.ports < (held : Int))
  if s.active then
    if belowBand s.cfg s.ports then
      if commits then { s with hold := held, active := false, out := !m } else { s with hold := held, out := m }
    else { s with hold := 0, out := m }
  else
    if aboveBand s.cfg s.ports then
      if commits then { s with hold := held, active := true, out := m } else { s with hold := held, out := !m }
    else { s with hold := 0, out := !m }

/-- A disabled controller drives the idle level `MODE`, or runs the buzzer in the extended variant (42_relay_controller.md R181). -/
def idleController (s : State) : State :=
  if s.cfg.buzzer then buzzerStep s.ports.mode s else { s with out := s.ports.mode }

/-- An enabled controller of the extended variant first clears the pulse count (42_relay_controller.md R193, D22). -/
def clearPulse (s : State) : State := if s.cfg.buzzer then { s with pulse := 0 } else s

/-- RELAY_INVOKE (42_relay_controller.md R180). -/
def relayInvoke (s : State) : State := if s.enabled then hysteresis (clearPulse s) else idleController s

/-- Writes `ENABLED` and nothing else: the effect of RLY_ENABLE, of RLY_DISABLE and of the force-disable (42_relay_controller.md R194
to R196; 44_dispatcher.md R244). -/
def setEnabled (b : Bool) (s : State) : State := { s with enabled := b }

/-- The meaning of RLY_ENABLE (42_relay_controller.md R194). -/
def execRlyEnable (s : State) : Result := operate (setEnabled true) s

/-- The meaning of RLY_DISABLE (42_relay_controller.md R195). -/
def execRlyDisable (s : State) : Result := operate (setEnabled false) s

end Sys2Proof.Machine
end

