-- ==== Sys2Proof/Machine/TickDispatcher.lean ====
section
/-! DEFINITION. Tick Dispatcher: TICK and NOP (44_dispatcher.md). Step 1 of a TICK, the interrupt source flag, is outside the block (R242,
D41). -/

namespace Sys2Proof.Machine

/-- Step 2 of a TICK: ADVANCE, and whether it carried (44_dispatcher.md R240). -/
def clockStep (s : State) : State × Bool :=
  ({ s with up := (advance s.cfg.tps s.up).1 }, (advance s.cfg.tps s.up).2)

/-- Expiry: fire `ev_ferm_complete` and force-disable the relay controller (44_dispatcher.md R244, D30). -/
def expire (s : State) : State := setEnabled false (emit .fermComplete s)

/-- Step 3 of a carry tick: FT_TICK with the new seconds, then expiry (44_dispatcher.md R243, R244). -/
def fermentationStep (s : State) : State :=
  let r := ftTick s.ft s.phase (upSeconds s.up)
  if r.2 then expire { s with ft := r.1 } else { s with ft := r.1 }

/-- Step 5 for one task: at most one of a UI refresh, a sensor kick-off and a relay invocation (44_dispatcher.md R245, R247 to R249). -/
def runTask (t : Task) (s : State) : State :=
  match t with
  | .none => s
  | .ui => emit .uiRefresh s
  | .sensor => emit .sensorStart s
  | .relay => relayInvoke s

/-- The task this TICK selects: FANOUT of the new ticks field (44_dispatcher.md R241, R246, D42). -/
def selectedTask (s : State) : Task := fanOut s.cfg.fanout (BitVec.ofNat 9 (upTicks s.up))

/-- Step 5 of a TICK (44_dispatcher.md R240). -/
def fanOutStep (s : State) : State := runTask (selectedTask s) s

/-- TICK, its steps in order, each on the state the one before it left (44_dispatcher.md R240, R241). Step 4 is the increment inside
ADVANCE (40_clock.md R129). -/
def tickOperation (s : State) : State :=
  let r := clockStep s
  fanOutStep (if r.2 then fermentationStep r.1 else r.1)

/-- The meaning of TICK, by command and by `tick_in` alike (44_dispatcher.md R240; 30_encoding.md R97). -/
def execTick (s : State) : Result := operate tickOperation s

/-- No effect (44_dispatcher.md R250). -/
def noEffect (s : State) : State := s

/-- The meaning of NOP (44_dispatcher.md R250). -/
def execNop (s : State) : Result := operate noEffect s

end Sys2Proof.Machine
end

