-- ==== Sys2Proof/Machine/Dispatch.lean ====
section
/-! DEFINITION. One arm per command: the operation rules of 30_encoding.md R94 and R96. -/

namespace Sys2Proof.Machine

/-- Performs a command (30_encoding.md R96). -/
def exec (i : Instr) (s : State) : Host.Outcome State Fault Refusal :=
  match i with
  | .nop => Sys2Proof.Machine.execNop s
  | .tick => Sys2Proof.Machine.execTick s
  | .clkReset => Sys2Proof.Machine.execClkReset s
  | .ftStart d => Sys2Proof.Machine.execFtStart d s
  | .ftStop => Sys2Proof.Machine.execFtStop s
  | .rlyEnable => Sys2Proof.Machine.execRlyEnable s
  | .rlyDisable => Sys2Proof.Machine.execRlyDisable s

end Sys2Proof.Machine
end

