-- ==== Sys2Proof/Machine/Sequencer.lean ====
section
/-! DEFINITION. The block sequencer: performing a command word (30_encoding.md R96, R98), a host write (20_memory.md R63, R65), and
serving what arrives from outside in its total order (20_memory.md R71; 60_exceptions.md R275). -/

namespace Sys2Proof.Machine

/-- Performs a command word: the decoded operation, or no operation for a reserved opcode (30_encoding.md R96, R98). -/
def perform (w : Word) (s : State) : Result :=
  match decode w with
  | .op i => exec i s
  | .noOperation _ => operate noEffect s

/-- MemWrite: a write to `CMD` performs its word; a write anywhere else is ignored (20_memory.md R63, R65). -/
def busWrite (addr : Nat) (size : AccessSize) (data : Word) (s : State) : Result :=
  admitAccess addr size s fun off => if regAt off = .cmd then perform data s else .next s.quiet

/-- Serves one host access. -/
def serveAccess (a : Access) (s : State) : Result :=
  match a with
  | .read addr size => busRead addr size s
  | .write addr size data => busWrite addr size data s

/-- Serves one arrival, already taken off the inbox. A pulse of `tick_in` is one TICK (10_state.md R38); with a host access at the same
instant the TICK comes first and the access right after it (60_exceptions.md R275; assumption log 12). -/
def serve (a : Arrival) (s : State) : Result :=
  match a with
  | .tickIn => exec .tick s
  | .access acc => serveAccess acc s
  | .tickInWith acc => exec .tick { s with inbox := .access acc :: s.inbox }
  | .drive p => .next { s.quiet with ports := p }
  | .resetPin level => .next (setResetPin level s)

/-- One step of the block under a legal configuration: the next arrival; with none, it waits (70_reset_and_hazards.md R301). -/
def serveNext (s : State) : Result :=
  match s.inbox with
  | [] => .next s.quiet
  | a :: rest => serve a { s with inbox := rest }

/-- The address of `CMD` (20_memory.md R63). -/
def cmdAddress (c : Params) : Nat := c.base + offsetOf .cmd

/-- The host's write of a command word to `CMD`. -/
def commandWrite (c : Params) (w : Word) : Arrival := .access (.write (cmdAddress c) .word w)

end Sys2Proof.Machine
end

