-- ==== Sys2Proof/Machine/Step.lean ====
section
/-! DEFINITION. One step of the machine: one arrival served, as one atomic transition (00_scope.md R3; 20_memory.md R71). -/

namespace Sys2Proof.Machine

/-- One step. A configuration with `TPS` outside 1..511 has no meaning (00_scope.md R9). -/
def step (s : State) : Host.Outcome State Fault Refusal :=
  if s.cfg.legal then serveNext s else .refused .tpsOutOfRange

/-- `s` with the host's write of the command word `w` (its lowest `nbits` bits) to `CMD` as the next arrival. The block fetches nothing
(20_memory.md R74): this write is how a command comes to run (assumption log 2). -/
def State.withFetchWord (s : State) (nbits w : Nat) : State :=
  { s with inbox := commandWrite s.cfg (BitVec.ofNat 32 (w % 2 ^ nbits)) :: s.inbox }

end Sys2Proof.Machine
end

