-- ==== Sys2Proof/Machine/Assembler.lean ====
section
/-! DEFINITION. The assembler syntax of host programs and its pseudo-instructions (30_encoding.md R101, R102): what a statement
is, which operands it admits, the text it is written in, and the host accesses it stands for. -/

namespace Sys2Proof.Machine

/-- A statement of a host program (30_encoding.md R101, R102), its operands as written. -/
inductive AsmLine where
  /-- a command by its mnemonic -/
  | command (i : Instr)
  /-- `CMD 0x<word>`: a raw word -/
  | raw (word : Nat)
  /-- `RD <register>` -/
  | read (r : RegName)
  /-- `IN TEMP=a, THR=b, HYST=c, DELAY=e, MODE=m` -/
  | input (temp thr hyst delay : Int) (mode : Nat)
  /-- `TICKN n` -/
  | tickN (n : Nat)
  /-- `RLY_SET #b` -/
  | rlySet (b : Nat)
  /-- `FT_RESTART #d` -/
  | ftRestart (d : Nat)
deriving DecidableEq, Repr

/-- An input port of `IN_W` bits can show the value (00_scope.md R10). -/
def inputFits (c : Params) (x : Int) : Bool := decide (signedLevel c.inW x = x)

/-- The operands the syntax admits; any other is an assembly error (30_encoding.md R101, R102). -/
def asmWellFormed (c : Params) : AsmLine → Bool
  | .command i => i.wellFormed
  | .raw word => decide (word < 2 ^ 32)
  | .read _ => true
  | .input temp thr hyst delay mode =>
    inputFits c temp && inputFits c thr && inputFits c hyst && inputFits c delay && decide (mode ≤ 1)
  | .tickN _ => true
  | .rlySet b => decide (b ≤ 1)
  | .ftRestart d => decide (d ≤ 65535)

/-- The host's write of a command in its canonical word (30_encoding.md R101). -/
def commandArrival (c : Params) (i : Instr) : Arrival := commandWrite c (encode i)

/-- What a well-formed statement stands for (30_encoding.md R101, R102). -/
def expandLine (c : Params) : AsmLine → List Arrival
  | .command i => [commandArrival c i]
  | .raw word => [commandWrite c (BitVec.ofNat 32 word)]
  | .read r => [.access (.read (c.base + offsetOf r) .word)]
  | .input temp thr hyst delay mode =>
    [.drive ⟨temp, thr, hyst, delay, decide (mode = 1)⟩]
  | .tickN n => List.replicate n (commandArrival c .tick)
  | .rlySet b => [commandArrival c (if b = 1 then .rlyEnable else .rlyDisable)]
  | .ftRestart d => [commandArrival c .ftStop, commandArrival c (.ftStart d)]

/-- Assembles a statement, none on an assembly error. -/
def assembleLine (c : Params) (l : AsmLine) : Option (List Arrival) :=
  if asmWellFormed c l then some (expandLine c l) else none

/-- Assembles a program, none on the first assembly error. -/
def assemble (c : Params) : List AsmLine → Option (List Arrival)
  | [] => some []
  | l :: rest =>
    match assembleLine c l, assemble c rest with
    | some here, some after => some (here ++ after)
    | _, _ => none

/-! ### The text (30_encoding.md R101): one statement a line, `;` starts a comment -/

/-- The characters of a line before its comment. -/
def withoutComment : List Char → List Char
  | [] => []
  | ch :: rest => if ch = ';' then [] else ch :: withoutComment rest

/-- The pieces of `text` between characters that `isGap` holds of; `piece` collects the current one, reversed. -/
def splitAtGaps (isGap : Char → Bool) : List Char → List Char → List (List Char)
  | piece, [] => [piece.reverse]
  | piece, ch :: rest => if isGap ch then piece.reverse :: splitAtGaps isGap [] rest else splitAtGaps isGap (ch :: piece) rest

/-- The words of a line, parted by blanks and commas. -/
def lineWords (line : List Char) : List (List Char) :=
  (splitAtGaps (fun ch => ch = ' ' || ch = ',' || ch = '\t' || ch = '\r') [] (withoutComment line)).filter (fun w => !w.isEmpty)

/-- The value of a digit in a base up to 16. -/
def digitValue (base : Nat) (ch : Char) : Option Nat :=
  let n := ch.toNat
  let v :=
    if 48 ≤ n ∧ n ≤ 57 then n - 48
    else if 97 ≤ n ∧ n ≤ 102 then n - 87
    else if 65 ≤ n ∧ n ≤ 70 then n - 55
    else base
  if v < base then some v else none

/-- The number that digits write after the value `acc`. -/
def digitsFrom (base acc : Nat) : List Char → Option Nat
  | [] => some acc
  | ch :: rest =>
    match digitValue base ch with
    | some v => digitsFrom base (acc * base + v) rest
    | none => none

/-- A hexadecimal number written with its `0x`. -/
def parseHex : List Char → Option Nat
  | '0' :: 'x' :: d :: rest => digitsFrom 16 0 (d :: rest)
  | _ => none

/-- A decimal or `0x` hexadecimal number. -/
def parseNat (w : List Char) : Option Nat :=
  match w with
  | [] => none
  | '0' :: 'x' :: rest => parseHex ('0' :: 'x' :: rest)
  | _ => digitsFrom 10 0 w

/-- An integer, with a minus sign if it is negative. -/
def parseInt : List Char → Option Int
  | '-' :: w => (parseNat w).map fun n => -(n : Int)
  | w => (parseNat w).map fun n => (n : Int)

/-- An operand `#d`. -/
def parseHash : List Char → Option Nat
  | '#' :: w => parseNat w
  | _ => none

/-- What follows `pre` in a word. -/
def afterPrefix : List Char → List Char → Option (List Char)
  | [], w => some w
  | p :: ps, ch :: w => if p = ch then afterPrefix ps w else none
  | _ :: _, [] => none

/-- The register a `RD` statement names (20_memory.md R61). -/
def parseRegister (w : List Char) : Option RegName :=
  if w = "UPTIME".toList then some .uptime
  else if w = "FTIMER".toList then some .ftimer
  else if w = "FTPHASE".toList then some .ftphase
  else if w = "STATUS".toList then some .status
  else if w = "HOLD".toList then some .hold
  else if w = "PULSE".toList then some .pulse
  else if w = "CMD".toList then some .cmd
  else if w = "UP_TICKS".toList then some .upTicks
  else if w = "UP_SECONDS".toList then some .upSeconds
  else if w = "UP_MINUTES".toList then some .upMinutes
  else if w = "UP_HOURS".toList then some .upHours
  else if w = "UP_DAYS".toList then some .upDays
  else if w = "FT_HOURS".toList then some .ftHours
  else if w = "FT_MINUTES".toList then some .ftMinutes
  else none

/-- A statement of one word. -/
def parseBare (m : List Char) : Option AsmLine :=
  if m = "NOP".toList then some (.command .nop)
  else if m = "TICK".toList then some (.command .tick)
  else if m = "CLK_RESET".toList then some (.command .clkReset)
  else if m = "FT_STOP".toList then some (.command .ftStop)
  else if m = "RLY_ENABLE".toList then some (.command .rlyEnable)
  else if m = "RLY_DISABLE".toList then some (.command .rlyDisable)
  else none

/-- A statement of a word and its operand. -/
def parseWithOperand (m x : List Char) : Option AsmLine :=
  if m = "FT_START".toList then (parseHash x).map fun d => .command (.ftStart d)
  else if m = "FT_RESTART".toList then (parseHash x).map .ftRestart
  else if m = "RLY_SET".toList then (parseHash x).map .rlySet
  else if m = "TICKN".toList then (parseNat x).map .tickN
  else if m = "CMD".toList then (parseHex x).map .raw
  else if m = "RD".toList then (parseRegister x).map .read
  else none

/-- A value written `KEY=v`. -/
def parseSetting (key : List Char) (w : List Char) : Option Int :=
  (afterPrefix key w).bind parseInt

/-- The `IN` directive, its five settings in the order of R101. -/
def parseInput (t h y d m : List Char) : Option AsmLine :=
  match parseSetting "TEMP=".toList t, parseSetting "THR=".toList h, parseSetting "HYST=".toList y,
      parseSetting "DELAY=".toList d, (afterPrefix "MODE=".toList m).bind parseNat with
  | some temp, some thr, some hyst, some delay, some mode => some (.input temp thr hyst delay mode)
  | _, _, _, _, _ => none

/-- The statement of a line: `some none` for a line without one, `none` for a line the syntax does not know. -/
def parseLine (line : List Char) : Option (Option AsmLine) :=
  match lineWords line with
  | [] => some none
  | [m] => (parseBare m).map some
  | [m, x] => (parseWithOperand m x).map some
  | [k, t, h, y, d, m] => if k = "IN".toList then (parseInput t h y d m).map some else none
  | _ => none

/-- The statements of lines of text, none if one of them is no statement. -/
def parseLines : List (List Char) → Option (List AsmLine)
  | [] => some []
  | l :: rest =>
    match parseLine l, parseLines rest with
    | some (some x), some xs => some (x :: xs)
    | some none, some xs => some xs
    | _, _ => none

/-- Assembles a program text. -/
def assembleText (c : Params) (text : List Char) : Option (List Arrival) :=
  (parseLines (splitAtGaps (fun ch => ch = '\n') [] text)).bind (assemble c)

end Sys2Proof.Machine
end

