-- ==== Sys2Proof/Safety.lean ====
section
/-! DEFINITION. What counts as a safe run, and the measures claims are stated in: the invariant every reachable state has (10_state.md R22,
R29, R30), runs, and the numbers the packed registers stand for. -/

namespace Sys2Proof.Machine

/-- The block performs requests: a legal configuration (00_scope.md R9), and `rst_n` high (70_reset_and_hazards.md R300). -/
abbrev Accepting (s : State) : Prop := s.cfg.legal = true ∧ s.rstN = true

/-- Every field of `UP` is in its range; `UP.DAYS` always is (10_state.md R22). -/
abbrev UptimeInRange (tps : Nat) (up : Word) : Prop :=
  upTicks up < tps ∧ upSeconds up < 60 ∧ upMinutes up < 60 ∧ upHours up < 24

/-- The event lists one operation can leave: at most `ev_ferm_complete`, then at most one of the fan-out strobes (44_dispatcher.md R240;
10_state.md R37). -/
def eventLists : List (List Event) :=
  [[], [.fermComplete], [.uiRefresh], [.sensorStart], [.fermComplete, .uiRefresh], [.fermComplete, .sensorStart]]

/-- The invariant of the block. -/
structure Inv (s : State) : Prop where
  /-- The configuration has a meaning (00_scope.md R9). -/
  legal : s.cfg.legal = true
  /-- 10_state.md R22 -/
  uptime : UptimeInRange s.cfg.tps s.up
  /-- 10_state.md R30 -/
  minutes : ftMinutes s.ft ≤ 59
  /-- 10_state.md R29 -/
  phase : s.phase.toNat ≤ 59
  /-- The pulse count of a variant without a buzzer is never written (10_state.md R34). -/
  absentPulse : s.cfg.buzzer = false → s.pulse = 0
  /-- A cycle clears the count at its end (43_buzzer.md R223). -/
  pulseBound : s.pulse = 0 ∨ s.pulse < s.cfg.bzCycleEnd
  /-- 10_state.md R33 -/
  holdWidth : s.hold < 2 ^ s.cfg.holdW
  /-- 10_state.md R34 -/
  pulseWidth : s.pulse < 2 ^ s.cfg.pulseW
  /-- While `rst_n` is low every register holds its reset value (70_reset_and_hazards.md R300). -/
  heldInReset : s.rstN = false → resetRegisters s = s
  /-- 10_state.md R37 -/
  events : s.events ∈ eventLists

/-- `n` steps, ending at the first stop. -/
def run : Nat → State → Result
  | 0, s => .next s
  | n + 1, s =>
    match step s with
    | .next t => run n t
    | .fault r => .fault r
    | .refused r => .refused r

/-- `n` pulses of `tick_in` are the next to arrive (30_encoding.md R102). -/
def withTicks (n : Nat) (s : State) : State := { s with inbox := List.replicate n .tickIn ++ s.inbox }

/-- The run that serves `n` pulses of `tick_in` (30_encoding.md R102). -/
def runTicks (n : Nat) (s : State) : Result := run n (withTicks n s)

/-- The uptime as one number of ticks: the fields of `UP` in mixed radix (40_clock.md R130). -/
def uptimeTicks (tps : Nat) (up : Word) : Nat :=
  (((upDays up * 24 + upHours up) * 60 + upMinutes up) * 60 + upSeconds up) * tps + upTicks up

/-- The ticks after which the whole counter is back where it started (40_clock.md R130). -/
def uptimePeriod (tps : Nat) : Nat := 64 * 86400 * tps

/-- The countdown as one number of minutes (41_fermentation_timer.md R158). -/
def remainingMinutes (ft : TimerWord) : Nat := 60 * ftHours ft + ftMinutes ft

/-- A controller whose temperature is on the wrong side of the band for its present decision (42_relay_controller.md R184, R187). -/
def outOfBand (s : State) : Bool := if s.active then belowBand s.cfg s.ports else aboveBand s.cfg s.ports

/-- The next TICK is a carry tick (40_clock.md R121). -/
def nextCarries (s : State) : Bool := (advance s.cfg.tps s.up).2

/-- `UP` after the next TICK (40_clock.md R120). -/
def nextUp (s : State) : Word := (advance s.cfg.tps s.up).1

/-- The task the next TICK selects (44_dispatcher.md R246). -/
def nextTask (s : State) : Task := fanOut s.cfg.fanout (BitVec.ofNat 9 (upTicks (nextUp s)))

/-- The next TICK is the expiry TICK of the countdown (41_fermentation_timer.md R156). -/
def nextExpires (s : State) : Bool := nextCarries s && (ftTick s.ft s.phase (upSeconds (nextUp s))).2

/-- The state a TICK hands to its fan-out: the new uptime, the fermentation step of a carry tick, and the force-disable of an expiry
(44_dispatcher.md R240, R243, R244). -/
def beforeFanOut (s : State) : State :=
  { s with
    up := nextUp s
    ft := if nextCarries s then (ftTick s.ft s.phase (upSeconds (nextUp s))).1 else s.ft
    enabled := if nextExpires s then false else s.enabled
    events := if nextExpires s then [.fermComplete] else []
    readData := none }

/-- The access is admitted: in the window, a full word, aligned (20_memory.md R60, R66, R67). -/
def admitted (c : Params) : Access → Bool
  | .read addr size => decide (c.base ≤ addr ∧ addr < c.base + 64 ∧ size = .word ∧ (addr - c.base) % 4 = 0)
  | .write addr size _ => decide (c.base ≤ addr ∧ addr < c.base + 64 ∧ size = .word ∧ (addr - c.base) % 4 = 0)

/-- What arrives asks for no access that the spec leaves without a step. -/
def arrivalAdmitted (c : Params) : Arrival → Bool
  | .tickIn => true
  | .access a => admitted c a
  | .tickInWith a => admitted c a
  | .drive _ => true
  | .resetPin _ => true

end Sys2Proof.Machine
end

