-- ==== Sys2Proof/Certificates/Slice0/Obligations.lean ====
section
/-! DEFINITION. The statements about the machine, for the provers. Each docstring names the rules of the spec it formalises; the
entries of OBLIGATIONS.json stand in the same order. -/

open Sys2Proof Sys2Proof.Machine

/-! ### The commands -/

/-- 44_dispatcher.md R250: NOP writes nothing and fires nothing, and a reserved opcode behaves exactly as NOP. -/
def Obligations.NopHasNoEffect : Prop :=
  (∀ s : State, Accepting s → exec .nop s = .next { s with events := [], readData := none }) ∧
    (∀ (w : Word) (s : State), 7 ≤ opcodeOf w → perform w s = exec .nop s) ∧
    encode .nop = 0x00000000 ∧ decode 0x00000000 = .op .nop

/-- 40_clock.md R128: CLK_RESET writes `UP` only; after it, as ever, a TICK writes `FT` only when it carries into second `PHASE`. -/
def Obligations.ClkResetClearsUptimeOnly : Prop :=
  (∀ s : State, Accepting s → exec .clkReset s = .next { s with up := 0, events := [], readData := none }) ∧
    (∀ s t : State, exec .tick s = .next t → t.ft ≠ s.ft →
      nextCarries s = true ∧ upSeconds t.up = s.phase.toNat) ∧
    encode .clkReset = 0x02000000 ∧ decode 0x02000000 = .op .clkReset

/-- 41_fermentation_timer.md R150, R152: FT_START writes `FT` and `PHASE`, whatever they held, and nothing else. -/
def Obligations.FtStartLoadsTimerAndPhase : Prop :=
  (∀ (d : Nat) (s : State), d ≤ 65535 → Accepting s →
    exec (.ftStart d) s =
      .next { s with
        ft := BitVec.ofNat 16 ((d + 1023) % 1024 * 64 + 59)
        phase := BitVec.ofNat 6 (upSeconds s.up)
        events := []
        readData := none }) ∧
    ∀ d : Nat, d ≤ 65535 →
      encode (.ftStart d) = 0x03000000 ||| BitVec.ofNat 32 d ∧
        decode (0x03000000 ||| BitVec.ofNat 32 d) = .op (.ftStart d)

/-- 41_fermentation_timer.md R151: the stored hours are `(d - 1) mod 1024`, which is 16-bit arithmetic on `((d - 1) << 6) | 59`, and
the timer is always active afterwards. -/
def Obligations.FtStartDurationCorners : Prop :=
  ∀ (d : Nat) (s : State), d ≤ 65535 → Accepting s →
    ∃ t, exec (.ftStart d) s = .next t ∧
      t.ft = ((BitVec.ofNat 16 d - 1) <<< 6) ||| 59 ∧
      (1 ≤ d → d ≤ 1024 → ftHours t.ft = d - 1) ∧
      (d = 0 → ftHours t.ft = 1023) ∧
      (1025 ≤ d → ftHours t.ft = (d - 1) % 1024) ∧
      ftMinutes t.ft = 59 ∧ t.ft ≠ 0

/-- 41_fermentation_timer.md R153: FT_STOP writes `FT` only and fires nothing. -/
def Obligations.FtStopClearsTimerOnly : Prop :=
  (∀ s : State, Accepting s → exec .ftStop s = .next { s with ft := 0, events := [], readData := none }) ∧
    encode .ftStop = 0x04000000 ∧ decode 0x04000000 = .op .ftStop

/-- 42_relay_controller.md R194: RLY_ENABLE writes `ENABLED` only. -/
def Obligations.RlyEnableSetsEnabledOnly : Prop :=
  (∀ s : State, Accepting s → exec .rlyEnable s = .next { s with enabled := true, events := [], readData := none }) ∧
    encode .rlyEnable = 0x05000000 ∧ decode 0x05000000 = .op .rlyEnable

/-- 42_relay_controller.md R195: RLY_DISABLE writes `ENABLED` only; the next relay invocation drives `MODE`, or the buzzer's level. -/
def Obligations.RlyDisableClearsEnabledOnly : Prop :=
  (∀ s : State, Accepting s →
    exec .rlyDisable s = .next { s with enabled := false, events := [], readData := none } ∧
      ∀ t, exec .rlyDisable s = .next t →
        (t.cfg.buzzer = false → (relayInvoke t).out = t.ports.mode) ∧
          (t.cfg.buzzer = true → (relayInvoke t).out = (buzzerStep t.ports.mode t).out)) ∧
    encode .rlyDisable = 0x06000000 ∧ decode 0x06000000 = .op .rlyDisable

/-- 42_relay_controller.md R196: neither command writes `ACTIVE` or `HOLD`, nor does an expiry TICK, nor any command while the controller is
disabled. -/
def Obligations.DisablingKeepsDecision : Prop :=
  (∀ s t : State, exec .rlyEnable s = .next t ∨ exec .rlyDisable s = .next t → t.active = s.active ∧ t.hold = s.hold) ∧
    (∀ s t : State, nextExpires s = true → exec .tick s = .next t → t.active = s.active ∧ t.hold = s.hold) ∧
    (∀ (i : Instr) (s t : State), s.enabled = false → exec i s = .next t → t.active = s.active ∧ t.hold = s.hold)

/-! ### The uptime counter -/

/-- The packed counter is the counter of ticks modulo its period (40_clock.md, ADVANCE and its periods; 10_state.md, the reachable
values): every TICK completes and adds one, and every register but those a TICK writes is left. -/
def Obligations.TickCountsUptimeModuloPeriod : Prop :=
  ∀ s : State, Accepting s → UptimeInRange s.cfg.tps s.up →
    ∃ t, exec .tick s = .next t ∧
      UptimeInRange s.cfg.tps t.up ∧
      uptimeTicks s.cfg.tps t.up = (uptimeTicks s.cfg.tps s.up + 1) % uptimePeriod s.cfg.tps ∧
      (nextCarries s = true ↔ upTicks s.up + 1 = s.cfg.tps) ∧
      t.phase = s.phase ∧ t.ports = s.ports ∧ t.rstN = s.rstN ∧ t.cfg = s.cfg ∧ t.inbox = s.inbox ∧ t.readData = none

/-- 40_clock.md R120, R122, R123, R124, R126: ADVANCE on every 32-bit word, reachable or not, as adds on the whole word: clearing `60` seconds
and adding a minute is `0x8000 - 60 × 0x200 = 0x800`, `60` minutes and an hour `0x200000 - 60 × 0x8000 = 0x20000`, `24` hours and a day
`0x4000000 - 24 × 0x200000 = 0x1000000`; with the three unreachable encodings the spec works out. -/
def Obligations.AdvanceIsRawPackedArithmetic : Prop :=
  (∀ (tps : Nat) (up : Word), 1 ≤ tps → tps ≤ 511 →
    let second := up - (up &&& 0x1FF#32) + 0x200#32
    let minute := second + 0x800#32
    let hour := minute + 0x20000#32
    let day := hour + 0x1000000#32
    advance tps up =
      if (up &&& 0x1FF#32).toNat + 1 < tps then (up + 1#32, false)
      else if (second >>> 9) &&& 0x3F#32 ≠ 60#32 then (second, true)
      else if (minute >>> 15) &&& 0x3F#32 ≠ 60#32 then (minute, true)
      else if (hour >>> 21) &&& 0x1F#32 ≠ 24#32 then (hour, true)
      else (day, true)) ∧
    advance 500 0x000001FF = (0x00000200, true) ∧
    advance 500 0x00007FF9 = (0x00008000, true) ∧
    advance 500 0x00007E00 = (0x00007E01, false)

/-- 40_clock.md, the carries, on the values a run reaches: each field is cleared when it reaches its limit, and carries into the next one only
then. -/
def Obligations.AdvanceCarriesFieldByField : Prop :=
  ∀ (tps : Nat) (up : Word), 1 ≤ tps → tps ≤ 511 → UptimeInRange tps up →
    let u := (advance tps up).1
    let perSecond := upTicks up + 1 = tps
    let perMinute := perSecond ∧ upSeconds up = 59
    let perHour := perMinute ∧ upMinutes up = 59
    let perDay := perHour ∧ upHours up = 23
    upTicks u = (if perSecond then 0 else upTicks up + 1) ∧
      upSeconds u = (if perMinute then 0 else if perSecond then upSeconds up + 1 else upSeconds up) ∧
      upMinutes u = (if perHour then 0 else if perMinute then upMinutes up + 1 else upMinutes up) ∧
      upHours u = (if perDay then 0 else if perHour then upHours up + 1 else upHours up) ∧
      upDays u = (if perDay then (upDays up + 1) % 64 else upDays up)

/-- 40_clock.md R125: the counter wraps from the last tick of day 63 to 0, with no flag, no event and nothing else written. -/
def Obligations.DaysWrapSilently : Prop :=
  (∀ s : State, Accepting s →
    upDays s.up = 63 → upHours s.up = 23 → upMinutes s.up = 59 → upSeconds s.up = 59 → upTicks s.up + 1 = s.cfg.tps →
    nextUp s = 0 ∧ nextCarries s = true ∧
      (s.ft = 0 → fanOut s.cfg.fanout 0 = .none →
        exec .tick s = .next { s with up := 0, events := [], readData := none })) ∧
    advance 500 0xFEFDF7F3 = (0, true)

/-- 40_clock.md, "The increment the raw uptime step": without a carry a TICK adds 1 to the whole word, and only the selected task follows. -/
def Obligations.TickWithoutCarryIncrementsRawWord : Prop :=
  ∀ s : State, Accepting s → nextCarries s = false →
    exec .tick s = .next (runTask (nextTask s) { s with up := s.up + 1, events := [], readData := none })

/-! ### TICK -/

/-- 44_dispatcher.md R240, R241, R243: TICK completes in every accepting state; FT_TICK runs only on a carry and on the new seconds, an expiry
clears `ENABLED` before the fan-out, and the fan-out reads the new ticks. -/
def Obligations.TickRunsItsStepsInOrder : Prop :=
  (∀ s : State, Accepting s →
    exec .tick s =
      .next (runTask (fanOut s.cfg.fanout (BitVec.ofNat 9 (upTicks (advance s.cfg.tps s.up).1)))
        (if (advance s.cfg.tps s.up).2 = true then
          if (ftTick s.ft s.phase (upSeconds (advance s.cfg.tps s.up).1)).2 = true then
            { s with
              up := (advance s.cfg.tps s.up).1
              ft := (ftTick s.ft s.phase (upSeconds (advance s.cfg.tps s.up).1)).1
              enabled := false
              events := [.fermComplete]
              readData := none }
          else
            { s with
              up := (advance s.cfg.tps s.up).1
              ft := (ftTick s.ft s.phase (upSeconds (advance s.cfg.tps s.up).1)).1
              events := []
              readData := none }
        else { s with up := (advance s.cfg.tps s.up).1, events := [], readData := none }))) ∧
    encode .tick = 0x01000000 ∧ decode 0x01000000 = .op .tick

/-- 44_dispatcher.md R245, R247, R248, R249: a TICK does exactly the task its table selects; no other command touches the relay state. -/
def Obligations.TickRunsAtMostOneTask : Prop :=
  (∀ s t : State, Accepting s → exec .tick s = .next t →
    (.uiRefresh ∈ t.events ↔ nextTask s = .ui) ∧
      (.sensorStart ∈ t.events ↔ nextTask s = .sensor) ∧
      (nextTask s = .none → t = beforeFanOut s) ∧
      (nextTask s = .ui → t = { beforeFanOut s with events := (beforeFanOut s).events ++ [.uiRefresh] }) ∧
      (nextTask s = .sensor → t = { beforeFanOut s with events := (beforeFanOut s).events ++ [.sensorStart] }) ∧
      (nextTask s = .relay → t = relayInvoke (beforeFanOut s))) ∧
    ∀ (i : Instr) (s t : State), i ≠ .tick → exec i s = .next t →
      t.active = s.active ∧ t.hold = s.hold ∧ t.pulse = s.pulse ∧ t.out = s.out

/-- 44_dispatcher.md, force-disable on expiry: an expiry TICK fires `ev_ferm_complete` once and first, and disables the controller; no other
TICK does either. Under the table this hardware takes (the spec's own choice D12) the expiry TICK does nothing else. -/
def Obligations.ExpiryFiresOnceAndDisables : Prop :=
  ∀ s : State, Accepting s →
    (nextExpires s = true →
      ∃ t, exec .tick s = .next t ∧ t.ft = 0 ∧ t.enabled = false ∧
        t.events.head? = some .fermComplete ∧ t.events.count .fermComplete = 1 ∧
        t.active = s.active ∧ t.hold = s.hold ∧
        (nextTask s ≠ .relay → t.out = s.out ∧ t.pulse = s.pulse) ∧
        (s.cfg.fanout = hardwareFanout →
          t = { s with up := nextUp s, ft := 0, enabled := false, events := [.fermComplete], readData := none })) ∧
      (nextExpires s = false → ∃ t, exec .tick s = .next t ∧ t.enabled = s.enabled ∧ .fermComplete ∉ t.events)

/-! ### The fermentation timer -/

/-- 41_fermentation_timer.md R154, R157: FT_TICK acts only on an active timer whose phase matches; it takes a minute, or borrows an hour,
and it expires exactly from 0 h 1 m. -/
def Obligations.FtTickDecrementsOrBorrows : Prop :=
  (∀ (ft : TimerWord) (phase : PhaseWord) (sec : Nat),
    (ft = 0 ∨ sec ≠ phase.toNat → ftTick ft phase sec = (ft, false)) ∧
      (ft ≠ 0 → sec = phase.toNat → 0 < ftMinutes ft →
        ftHours (ftTick ft phase sec).1 = ftHours ft ∧ ftMinutes (ftTick ft phase sec).1 = ftMinutes ft - 1) ∧
      (ft ≠ 0 → sec = phase.toNat → ftMinutes ft = 0 →
        0 < ftHours ft ∧ ftHours (ftTick ft phase sec).1 = ftHours ft - 1 ∧ ftMinutes (ftTick ft phase sec).1 = 59) ∧
      ((ftTick ft phase sec).2 = true ↔ ft ≠ 0 ∧ sec = phase.toNat ∧ (ftTick ft phase sec).1 = 0) ∧
      ((ftTick ft phase sec).2 = true ↔ ft = 1 ∧ sec = phase.toNat)) ∧
    ∀ s t : State, s.ft = 0 → exec .tick s = .next t → t.ft = 0 ∧ .fermComplete ∉ t.events

/-- A countdown that is over stays over (41_fermentation_timer.md, expiry and the zero gate): no command but FT_START starts it again, and
none fires its event. -/
def Obligations.StoppedTimerStaysStopped : Prop :=
  ∀ (i : Instr) (s t : State), (∀ d, i ≠ .ftStart d) → s.ft = 0 → exec i s = .next t →
    t.ft = 0 ∧ .fermComplete ∉ t.events

/-- 41_fermentation_timer.md, number of decrements: `n` matching FT_TICKs take `n` minutes off, the last of the countdown and only it
expires, and `FT_START #d` loads `60 d - 1` minutes for `1 ≤ d ≤ 1024`. -/
def Obligations.CountdownLengthInDecrements : Prop :=
  (∀ (ft : TimerWord) (p : PhaseWord) (n : Nat), ftMinutes ft ≤ 59 → n < remainingMinutes ft →
    let now := (fun f => (ftTick f p p.toNat).1)^[n] ft
    remainingMinutes now = remainingMinutes ft - n ∧
      remainingMinutes (ftTick now p p.toNat).1 = remainingMinutes ft - (n + 1) ∧
      ((ftTick now p p.toNat).2 = true ↔ n + 1 = remainingMinutes ft)) ∧
    ∀ d, 1 ≤ d → d ≤ 1024 → remainingMinutes (startValue d) = 60 * d - 1

/-- 41_fermentation_timer.md, time to expiry: with no command in between, the countdown of `FT_START #d` expires in exactly the TICK the spec
computes from the ticks field at the start, and in no TICK before it. -/
def Obligations.TimerExpiresAtComputedTick : Prop :=
  ∀ (s s1 : State) (d : Nat), Inv s → s.rstN = true → 1 ≤ d → d ≤ 1024 → exec (.ftStart d) s = .next s1 →
    let n := (s.cfg.tps - upTicks s.up) + 59 * s.cfg.tps + (60 * d - 2) * (60 * s.cfg.tps)
    (∀ m, m < n → ∃ t, runTicks m s1 = .next t ∧ t.ft ≠ 0) ∧
      ∃ t, runTicks n s1 = .next t ∧ t.ft = 0 ∧ t.enabled = false ∧ .fermComplete ∈ t.events

/-- 70_reset_and_hazards.md, "A clock reset moves the fermentation minute": after CLK_RESET the next decrement of a running countdown comes
after `PHASE` seconds, or after 60 when `PHASE` is 0. -/
def Obligations.ClockResetMovesNextDecrement : Prop :=
  ∀ s s1 : State, Inv s → s.rstN = true → s.ft ≠ 0 → exec .clkReset s = .next s1 →
    let n := (if s.phase = 0 then 60 else s.phase.toNat) * s.cfg.tps
    (∀ m, m < n → ∃ t, runTicks m s1 = .next t ∧ t.ft = s.ft) ∧
      ∃ t, runTicks n s1 = .next t ∧ remainingMinutes t.ft + 1 = remainingMinutes s.ft

/-! ### The relay controller -/

/-- 42_relay_controller.md R182, R183: the band offset is the floor of `HYST / 8`, the hold limit exactly `DELAY × 128`, on the `IN_W` bits the
ports show as two's complement; a value that fits in `IN_W` = 16 bits is shown as it is. -/
def Obligations.ScalingsAreExact : Prop :=
  ∀ (c : Params) (p : Ports),
    let hyst := p.hyst.bmod (2 ^ c.inW)
    let delay := p.delay.bmod (2 ^ c.inW)
    (c.hystShift = 3 →
      8 * bandOffset c p ≤ hyst ∧ hyst < 8 * bandOffset c p + 8 ∧
        (0 ≤ hyst → bandOffset c p = (hyst.toNat / 8 : Nat))) ∧
      (c.delayShift = 7 →
        holdLimit c p = delay * 128 ∧ (c.inW = 16 → -4194304 ≤ holdLimit c p ∧ holdLimit c p ≤ 4194176)) ∧
      ∀ x : Int, c.inW = 16 → -32768 ≤ x → x ≤ 32767 → signedLevel c.inW x = x

/-- 42_relay_controller.md R184 to R189: what an invocation does in an enabled controller, in each of its six cases, and that it writes
nothing else (in the extended variant it also clears `PULSE`). -/
def Obligations.EnabledInvocationFollowsHysteresis : Prop :=
  ∀ s : State, s.enabled = true → s.cfg.hystShift = 3 → s.cfg.delayShift = 7 →
    let temp := s.ports.temp.bmod (2 ^ s.cfg.inW)
    let thr := s.ports.thr.bmod (2 ^ s.cfg.inW)
    let b := Int.fdiv (s.ports.hyst.bmod (2 ^ s.cfg.inW)) 8
    let lim := s.ports.delay.bmod (2 ^ s.cfg.inW) * 128
    let held := (s.hold + 1) % 2 ^ s.cfg.holdW
    let m := s.ports.mode
    let pulse := if s.cfg.buzzer = true then 0 else s.pulse
    (s.active = true → temp < thr - b → lim < (held : Int) →
      relayInvoke s = { s with pulse := pulse, hold := held, active := false, out := !m }) ∧
    (s.active = true → temp < thr - b → (held : Int) ≤ lim →
      relayInvoke s = { s with pulse := pulse, hold := held, out := m }) ∧
    (s.active = true → thr - b ≤ temp →
      relayInvoke s = { s with pulse := pulse, hold := 0, out := m }) ∧
    (s.active = false → temp > thr + b → lim < (held : Int) →
      relayInvoke s = { s with pulse := pulse, hold := held, active := true, out := m }) ∧
    (s.active = false → temp > thr + b → (held : Int) ≤ lim →
      relayInvoke s = { s with pulse := pulse, hold := held, out := !m }) ∧
    (s.active = false → temp ≤ thr + b →
      relayInvoke s = { s with pulse := pulse, hold := 0, out := !m })

/-- 42_relay_controller.md R181: in the basic variant a disabled controller drives `MODE` and writes nothing else, and so does the whole
TICK, its uptime apart. -/
def Obligations.DisabledBasicControllerDrivesMode : Prop :=
  ∀ s : State, s.enabled = false → s.cfg.buzzer = false →
    relayInvoke s = { s with out := s.ports.mode } ∧
      (Accepting s → nextCarries s = false → nextTask s = .relay →
        exec .tick s = .next { s with up := s.up + 1, out := s.ports.mode, events := [], readData := none })

/-- 42_relay_controller.md and 70_reset_and_hazards.md, "Re-flip after a commit": a commit leaves `HOLD`, so a temperature out of band on the
other side at the very next invocation flips the controller back at once. -/
def Obligations.CommitLeavesHoldAndMayReflip : Prop :=
  ∀ (s : State) (p : Ports), s.enabled = true → outOfBand s = true →
    holdLimit s.cfg s.ports < (s.hold : Int) + 1 → s.hold + 2 < 2 ^ s.cfg.holdW → p.delay = s.ports.delay →
    (relayInvoke s).active = !s.active ∧ (relayInvoke s).hold = s.hold + 1 ∧
      (outOfBand { relayInvoke s with ports := p } = true →
        (relayInvoke { relayInvoke s with ports := p }).active = s.active ∧
          (relayInvoke { relayInvoke s with ports := p }).hold = s.hold + 2)

/-- 42_relay_controller.md R191: the hold count wraps to 0 at 2^`HOLD_W`, and a limit it cannot exceed never commits: at 16 bits 65535 or more,
so any `DELAY` of 512 or more. -/
def Obligations.HoldWrapsAndLongDelaysNeverCommit : Prop :=
  (∀ s : State, s.enabled = true → ((2 ^ s.cfg.holdW : Nat) : Int) ≤ holdLimit s.cfg s.ports + 1 →
    (relayInvoke s).active = s.active) ∧
    (∀ s : State, s.enabled = true → s.cfg.holdW = 16 → s.cfg.delayShift = 7 →
      512 ≤ s.ports.delay.bmod (2 ^ s.cfg.inW) → (relayInvoke s).active = s.active) ∧
    ∀ s : State, s.enabled = true → s.hold + 1 = 2 ^ s.cfg.holdW → outOfBand s = true →
      (relayInvoke s).hold = 0 ∧
        (relayInvoke s).active = (if holdLimit s.cfg s.ports < 0 then !s.active else s.active)

/-- 42_relay_controller.md, no clamping: `DELAY` ≤ 0 commits at the first out-of-band invocation. `DELAY` = 0 with `HOLD` = 65535 (at 16
bits) is the one exception: there the count wraps to 0, which does not exceed the limit 0 (the wrap of the same file; assumption log 18). -/
def Obligations.NonPositiveDelayCommitsAtOnce : Prop :=
  ∀ s : State, s.enabled = true → outOfBand s = true →
    delaySample s.cfg s.ports < 0 ∨ (delaySample s.cfg s.ports = 0 ∧ (s.hold + 1) % 2 ^ s.cfg.holdW ≠ 0) →
    (relayInvoke s).active = !s.active ∧ (relayInvoke s).out = (if s.active then !s.ports.mode else s.ports.mode)

/-- 42_relay_controller.md, hold-off length: from `HOLD` = 0 with the temperature held out of band, the controller commits at invocation
`lim + 1`, and not before. -/
def Obligations.HoldOffLastsLimitPlusOne : Prop :=
  ∀ s : State, s.enabled = true → s.hold = 0 → outOfBand s = true →
    0 ≤ holdLimit s.cfg s.ports → holdLimit s.cfg s.ports + 1 < ((2 ^ s.cfg.holdW : Nat) : Int) →
    (∀ n : Nat, (n : Int) ≤ holdLimit s.cfg s.ports →
      (relayInvoke^[n] s).active = s.active ∧ (relayInvoke^[n] s).hold = n ∧
        (0 < n → (relayInvoke^[n] s).out = (if s.active then s.ports.mode else !s.ports.mode))) ∧
      (relayInvoke^[(holdLimit s.cfg s.ports).toNat + 1] s).active = !s.active ∧
      (relayInvoke^[(holdLimit s.cfg s.ports).toNat + 1] s).out = (if s.active then !s.ports.mode else s.ports.mode)

/-! ### The buzzer -/

/-- 43_buzzer.md, the cycle: from a clear count, with `MODE` constant, invocation `n` of a disabled controller drives `MODE` but for the odd
invocations of the buzz window 6001 to 6010, and the cycle is 6070 invocations long. -/
def Obligations.BuzzerCycleIs6070Invocations : Prop :=
  ∀ (s : State) (n : Nat), s.enabled = false → s.cfg.buzzer = true →
    s.cfg.bzSettleEnd = 6000 → s.cfg.bzBuzzEnd = 6010 → s.cfg.bzCycleEnd = 6070 → 6070 < 2 ^ s.cfg.pulseW →
    s.pulse = 0 → 1 ≤ n →
    (relayInvoke^[n] s).pulse = n % 6070 ∧
      (relayInvoke^[n] s).out =
        (if 6000 < n % 6070 ∧ n % 6070 ≤ 6010 ∧ n % 2 = 1 then !s.ports.mode else s.ports.mode)

/-- 43_buzzer.md R220, R226: what one invocation of a disabled controller does in the extended variant, at every count, reachable or not; it
writes neither `ACTIVE` nor `HOLD` and does not read the temperature inputs. -/
def Obligations.BuzzerStepFollowsItsPhases : Prop :=
  ∀ s : State, s.enabled = false → s.cfg.buzzer = true →
    let n := (s.pulse + 1) % 2 ^ s.cfg.pulseW
    relayInvoke s =
      { s with
        pulse := if s.cfg.bzCycleEnd ≤ n then 0 else n
        out :=
          if n ≤ s.cfg.bzSettleEnd then s.ports.mode
          else if n ≤ s.cfg.bzBuzzEnd then !s.out else s.ports.mode } ∧
      (relayInvoke s).active = s.active ∧ (relayInvoke s).hold = s.hold ∧
      ∀ p : Ports, p.mode = s.ports.mode → relayInvoke { s with ports := p } = { relayInvoke s with ports := p }

/-- 42_relay_controller.md R193: in the extended variant an invocation that finds `ENABLED` = 1 first clears `PULSE`; RLY_ENABLE does not. -/
def Obligations.EnabledInvocationClearsPulse : Prop :=
  (∀ s : State, s.enabled = true → s.cfg.buzzer = true →
    (relayInvoke s).pulse = 0 ∧
      relayInvoke s = { relayInvoke { s with cfg := { s.cfg with buzzer := false } } with pulse := 0, cfg := s.cfg }) ∧
    ∀ s : State, Accepting s → ∃ t, exec .rlyEnable s = .next t ∧ t.pulse = s.pulse

/-! ### The register window -/

/-- 20_memory.md R64: a read changes no state and fires no event, and the same read again answers the same. -/
def Obligations.ReadsHaveNoSideEffects : Prop :=
  ∀ (s : State) (addr : Nat) (rest : List Arrival), s.cfg.legal = true →
    s.cfg.base ≤ addr → addr < s.cfg.base + 64 → (addr - s.cfg.base) % 4 = 0 →
    s.inbox = .access (.read addr .word) :: .access (.read addr .word) :: rest →
    ∃ v, run 1 s = .next { s with inbox := .access (.read addr .word) :: rest, events := [], readData := some v } ∧
      run 2 s = .next { s with inbox := rest, events := [], readData := some v }

/-- 20_memory.md R65: a write anywhere in the window but to `CMD` is ignored. -/
def Obligations.WritesOutsideCmdAreIgnored : Prop :=
  ∀ (s : State) (addr : Nat) (data : Word) (rest : List Arrival), s.cfg.legal = true →
    s.cfg.base ≤ addr → addr < s.cfg.base + 64 → (addr - s.cfg.base) % 4 = 0 → addr ≠ s.cfg.base + 0x18 →
    s.inbox = .access (.write addr .word data) :: rest →
    step s = .next { s with inbox := rest, events := [], readData := none }

/-- 20_memory.md R63: a write to `CMD` hands its word to the sequencer; a read of `CMD` answers 0 and has no effect. -/
def Obligations.CmdIsWriteOnly : Prop :=
  ∀ (s : State) (w : Word) (rest : List Arrival), s.cfg.legal = true →
    (s.inbox = .access (.write (s.cfg.base + 0x18) .word w) :: rest → step s = perform w { s with inbox := rest }) ∧
      (s.inbox = .access (.read (s.cfg.base + 0x18) .word) :: rest →
        step s = .next { s with inbox := rest, events := [], readData := some 0 })

/-- 20_memory.md R61, R62: what a read of each of the sixteen offsets answers, with the fields cut out by shift and mask, and what a write of
each does. The counts are those of the widths the map is drawn for, 16 bits (what a wider one would show is assumption log 4). -/
def Obligations.RegisterMapAccesses : Prop :=
  ∀ (s : State) (rest : List Arrival), Accepting s → s.hold < 65536 → s.pulse < 65536 →
    (∀ (off : Nat) (v : Word),
      (off, v) ∈
        [ (0x00, s.up), (0x04, s.ft.setWidth 32), (0x08, s.phase.setWidth 32),
          (0x0C, BitVec.ofNat 32 (s.enabled.toNat + 2 * s.active.toNat + 4 * s.out.toNat +
            8 * (if s.ft = 0 then 0 else 1) + 16 * s.cfg.buzzer.toNat)),
          (0x10, BitVec.ofNat 32 s.hold), (0x14, if s.cfg.buzzer = true then BitVec.ofNat 32 s.pulse else 0), (0x18, 0), (0x1C, 0),
          (0x20, s.up &&& 0x1FF), (0x24, (s.up >>> 9) &&& 0x3F), (0x28, (s.up >>> 15) &&& 0x3F),
          (0x2C, (s.up >>> 21) &&& 0x1F), (0x30, s.up >>> 26),
          (0x34, (s.ft >>> 6).setWidth 32), (0x38, (s.ft &&& 0x3F).setWidth 32), (0x3C, 0) ] →
      step { s with inbox := .access (.read (s.cfg.base + off) .word) :: rest } =
        .next { s with inbox := rest, events := [], readData := some v }) ∧
    ∀ (off : Nat) (w : Word), off < 64 → off % 4 = 0 →
      step { s with inbox := .access (.write (s.cfg.base + off) .word w) :: rest } =
        if off = 0x18 then perform w { s with inbox := rest }
        else .next { s with inbox := rest, events := [], readData := none }

/-- 20_memory.md, the STATUS layout, with the value it reads at reset in each variant. -/
def Obligations.StatusBitsReadAsLaidOut : Prop :=
  (∀ s : State, s.rstN = true →
    (readRegister .status s).getLsbD 0 = s.enabled ∧ (readRegister .status s).getLsbD 1 = s.active ∧
      (readRegister .status s).getLsbD 2 = s.out ∧ (readRegister .status s).getLsbD 3 = decide (s.ft ≠ 0) ∧
      (readRegister .status s).getLsbD 4 = s.cfg.buzzer ∧ ∀ k, 5 ≤ k → (readRegister .status s).getLsbD k = false) ∧
    ∀ (c : Params) (p : Ports),
      readRegister .status (State.powerOn c p) = if c.buzzer = true then 0x00000010 else 0x00000000

/-- 20_memory.md R68: byte lane `k` of a register presents bits `[8k+7:8k]`. -/
def Obligations.ByteLanesAreLittleEndian : Prop :=
  ∀ (s : State) (r : RegName) (k : Nat), k < 4 →
    readByte s (s.cfg.base + offsetOf r + k) = some ((readRegister r s >>> (8 * k)).setWidth 8)

/-- Which window bytes a command can change (20_memory.md, the register map): every byte of every other register reads as before. -/
def Obligations.CommandsLeaveOtherWindowBytes : Prop :=
  let uptimeRegs : List RegName := [.uptime, .upTicks, .upSeconds, .upMinutes, .upHours, .upDays]
  let timerRegs : List RegName := [.ftimer, .status, .ftHours, .ftMinutes]
  let written : Instr → List RegName := fun
    | .nop => []
    | .tick => uptimeRegs ++ timerRegs ++ [.hold, .pulse]
    | .clkReset => uptimeRegs
    | .ftStart _ => .ftphase :: timerRegs
    | .ftStop => timerRegs
    | .rlyEnable => [.status]
    | .rlyDisable => [.status]
  ∀ (i : Instr) (s t : State), exec i s = .next t →
    ∀ addr : Nat, (∀ off, windowOffset s.cfg addr = some off → regAt off ∉ written i) →
      readByte t addr = readByte s addr

/-- A narrow access and a misaligned one are refused (20_memory.md, access rules). That one which is both is refused as narrow, and that an
address outside the window is looked at first, is the model's order of checks (DESIGN CHOICE, assumption log 8); that they are refused while
`rst_n` is low too is the model's reading (DEDUCED, assumption log 14). -/
def Obligations.NarrowAndMisalignedAccessesAreRefused : Prop :=
  ∀ (s : State) (addr : Nat) (size : AccessSize) (data : Word) (rest : List Arrival), s.cfg.legal = true →
    s.cfg.base ≤ addr → addr < s.cfg.base + 64 →
    s.inbox = .access (.read addr size) :: rest ∨ s.inbox = .access (.write addr size data) :: rest →
    (size ≠ .word → step s = .refused .narrowAccess) ∧
      (size = .word → (addr - s.cfg.base) % 4 ≠ 0 → step s = .refused .misalignedAccess)

/-- The model's choice (assumption log 8) for an access the block does not decode (20_memory.md, address spaces): a fault. -/
def Obligations.AccessOutsideWindowFaults : Prop :=
  ∀ (s : State) (addr : Nat) (size : AccessSize) (data : Word) (rest : List Arrival), s.cfg.legal = true →
    addr < s.cfg.base ∨ s.cfg.base + 64 ≤ addr →
    s.inbox = .access (.read addr size) :: rest ∨ s.inbox = .access (.write addr size data) :: rest →
    step s = .fault .outsideWindow

/-! ### Encoding -/

/-- 30_encoding.md R98, R99: a reserved opcode performs no operation; ignored bits change nothing. -/
def Obligations.ReservedOpcodesAndIgnoredBits : Prop :=
  (∀ (w : Word) (s : State), 7 ≤ opcodeOf w → Accepting s →
    perform w s = .next { s with events := [], readData := none }) ∧
    ∀ (w w' : Word) (s : State), opcodeOf w = opcodeOf w' → (opcodeOf w = 3 → imm16Of w = imm16Of w') →
      perform w s = perform w' s

/-- 30_encoding.md, the decoder is total: every word is one of the seven operations, whose canonical word is the word with its ignored bits
cleared, or no operation. -/
def Obligations.EveryWordDecodesToOneOutcome : Prop :=
  ∀ w : Word,
    (opcodeOf w < 7 ∧ ∃ i, decode w = .op i ∧ i.wellFormed = true ∧
        encode i = BitVec.ofNat 32 (opcodeOf w * 2 ^ 24 + if opcodeOf w = 3 then imm16Of w else 0)) ∨
      (7 ≤ opcodeOf w ∧ decode w = .noOperation (opcodeOf w))

/-- Decode and encode agree, on words and on bytes, for every well-formed command with every operand (30_encoding.md). -/
def Obligations.DecodeOfEncodeIsIdentity : Prop :=
  ∀ i : Instr, i.wellFormed = true →
    decode (encode i) = .op i ∧
      (∀ rest : List Byte, decodeBytes (encodeBytes i ++ rest) = .ok (.op i, rest)) ∧
      decodeTableWord 32 (encode i).toNat = some i

/-- Words written out from the opcode map of 30_encoding.md decode to the commands they stand for. -/
def Obligations.WrittenOutWordsDecode : Prop :=
  decode 0b00000000_00000000_00000000_00000000 = .op .nop ∧
    decode 0b00000001_00000000_00000000_00000000 = .op .tick ∧
    decode 0b00000011_10101011_00000000_00000011 = .op (.ftStart 3) ∧
    decode 0b00000110_00000000_00000000_00000000 = .op .rlyDisable ∧
    decode 0b00000111_00000000_00000000_00000000 = .noOperation 7

/-! ### Steps -/

/-- A step runs the decoded command (30_encoding.md, performing a command): when the next arrival is a write of a word to `CMD`, step is exec
of its command on the state without that arrival. -/
def Obligations.StepRunsDecodedCommand : Prop :=
  ∀ (s : State) (w : Word) (i : Instr) (rest : List Arrival), s.cfg.legal = true →
    s.inbox = .access (.write (s.cfg.base + 0x18) .word w) :: rest → decode w = .op i →
    step s = exec i { s with inbox := rest }

/-- 30_encoding.md R97: the TICK command performs the same operation as a pulse of `tick_in`, and each advances the uptime by one tick. -/
def Obligations.TickCommandIsTickPulse : Prop :=
  (∀ (s : State) (rest : List Arrival), s.cfg.legal = true →
    step { s with inbox := .access (.write (s.cfg.base + 0x18) .word 0x01000000) :: rest } =
      step { s with inbox := .tickIn :: rest }) ∧
    ∀ (s : State) (rest : List Arrival), Accepting s → UptimeInRange s.cfg.tps s.up →
      ∃ t, step { s with inbox := .tickIn :: rest } = .next t ∧ t.inbox = rest ∧
        uptimeTicks s.cfg.tps t.up = (uptimeTicks s.cfg.tps s.up + 1) % uptimePeriod s.cfg.tps

/-- 60_exceptions.md R275: of a `tick_in` pulse and a host write of `CMD` at the same instant, the TICK is performed first and the command
right after it. -/
def Obligations.SimultaneousTickComesFirst : Prop :=
  ∀ (s : State) (w : Word) (rest : List Arrival), Accepting s →
    ∃ t, exec .tick { s with inbox := rest } = .next t ∧
      run 2 { s with inbox := .tickInWith (.write (s.cfg.base + 0x18) .word w) :: rest } = perform w t

/-- 70_reset_and_hazards.md R300: while `rst_n` is low every request is dropped and reads answer reset values; when it goes high every
register holds its reset value and no event fires. -/
def Obligations.ResetPinHoldsAndReleases : Prop :=
  (∀ (s : State) (rest : List Arrival), s.cfg.legal = true →
    ∃ t, step { s with inbox := .resetPin false :: rest } = .next t ∧ t.rstN = false ∧ t.events = [] ∧ t.inbox = rest) ∧
    ∀ (s : State) (rest : List Arrival), s.cfg.legal = true → s.rstN = false →
      step { s with inbox := .tickIn :: rest } = .next { s with inbox := rest, events := [], readData := none } ∧
      (∀ w : Word, step { s with inbox := .access (.write (s.cfg.base + 0x18) .word w) :: rest } =
        .next { s with inbox := rest, events := [], readData := none }) ∧
      (∀ r : RegName, step { s with inbox := .access (.read (s.cfg.base + offsetOf r) .word) :: rest } =
        .next { s with
          inbox := rest
          events := []
          readData := some (readRegister r (State.powerOn s.cfg s.ports)) }) ∧
      step { s with inbox := .resetPin true :: rest } = .next { State.powerOn s.cfg s.ports with inbox := rest }

/-- 10_state.md R40: after power-on reset every register is 0 and no strobe is active; the block waits, and with `TPS` > 1 its first TICK leaves
`UP` = 1 (70_reset_and_hazards.md, the entry point). -/
def Obligations.PowerOnRegistersAreZero : Prop :=
  ∀ (c : Params) (p : Ports),
    let s := State.powerOn c p
    s.up = 0 ∧ s.ft = 0 ∧ s.phase = 0 ∧ s.enabled = false ∧ s.active = false ∧ s.hold = 0 ∧ s.pulse = 0 ∧
      s.out = false ∧ relayOut s = false ∧ s.events = [] ∧
      (c.legal = true → step s = .next s) ∧
      (c.legal = true → 2 ≤ c.tps → ∃ t, exec .tick s = .next t ∧ t.up = 1)

/-- 00_scope.md R9: under a configuration with `TPS` outside 1..511 nothing has a meaning. -/
def Obligations.IllegalTpsIsRefused : Prop :=
  ∀ s : State, s.cfg.tps < 1 ∨ 511 < s.cfg.tps →
    step s = .refused .tpsOutOfRange ∧ ∀ i : Instr, exec i s = .refused .tpsOutOfRange

/-! ### The whole machine -/

/-- The invariant holds after power-on, for every legal configuration, and so of `State.reset` (10_state.md, reachable values). -/
def Obligations.InvariantHoldsAtPowerOn : Prop :=
  (∀ (c : Params) (p : Ports), c.legal = true → Inv (State.powerOn c p)) ∧ Inv State.reset

/-- Every step keeps the invariant (10_state.md, reachable values of `UP`, `FT`, `PHASE`; 43_buzzer.md, the end of the cycle;
70_reset_and_hazards.md, reset): the fields of the packed registers stay in their ranges, the counts within `HOLD_W` and
`PULSE_W` bits, the pulse count below its end. -/
def Obligations.StepKeepsInvariant : Prop :=
  ∀ s t : State, Inv s → step s = .next t → Inv t

/-- 10_state.md, reachable values: along every run from power-on, whatever arrives, the packed registers stay in their ranges and the
counts within their widths. -/
def Obligations.ReachableRegistersStayInRange : Prop :=
  ∀ (c : Params) (p : Ports) (arrivals : List Arrival) (n : Nat) (t : State), c.legal = true →
    run n { State.powerOn c p with inbox := arrivals } = .next t →
    UptimeInRange c.tps t.up ∧ ftMinutes t.ft ≤ 59 ∧ t.phase.toNat ≤ 59 ∧ t.hold < 2 ^ c.holdW ∧ t.pulse < 2 ^ c.pulseW

/-- The block writes neither its configuration nor its input ports (10_state.md, the ports): only the input providers change a level. -/
def Obligations.StepNeverWritesConfigurationOrPorts : Prop :=
  ∀ s t : State, step s = .next t →
    t.cfg = s.cfg ∧ (t.ports = s.ports ∨ ∃ rest, s.inbox = .drive t.ports :: rest) ∧
      (t.rstN = s.rstN ∨ ∃ rest, s.inbox = .resetPin t.rstN :: rest)

/-- 10_state.md R23: `UP` is written only by ADVANCE inside TICK, by CLK_RESET and by power-on reset. -/
def Obligations.UptimeHasThreeWriters : Prop :=
  ∀ s t : State, step s = .next t → t.up ≠ s.up →
    (∃ arrivals, exec .tick { s with inbox := arrivals } = .next t ∧ t.up = (advance s.cfg.tps s.up).1) ∨
      (∃ arrivals, exec .clkReset { s with inbox := arrivals } = .next t) ∨
      ∃ level rest, s.inbox = .resetPin level :: rest

/-- 10_state.md, the writers of the other registers, over commands: `FT` and `PHASE`, `ENABLED`, and the relay state. -/
def Obligations.RegistersHaveTheirWriters : Prop :=
  ∀ (i : Instr) (s t : State), exec i s = .next t →
    (t.ft ≠ s.ft → i = .tick ∨ i = .ftStop ∨ ∃ d, i = .ftStart d) ∧
      (t.phase ≠ s.phase → ∃ d, i = .ftStart d) ∧
      (s.enabled = false → t.enabled = true → i = .rlyEnable) ∧
      (s.enabled = true → t.enabled = false → i = .rlyDisable ∨ (i = .tick ∧ nextExpires s = true)) ∧
      (t.active ≠ s.active ∨ t.hold ≠ s.hold ∨ t.pulse ≠ s.pulse ∨ t.out ≠ s.out → i = .tick ∧ nextTask s = .relay) ∧
      (s.cfg.buzzer = false → t.pulse = s.pulse)

/-- 10_state.md R37: `relay_out` is `OUT`; each strobe fires at most once per operation, only inside TICK, in the order of TICK. -/
def Obligations.StrobesFireOnlyInsideTick : Prop :=
  (∀ s : State, relayOut s = s.out) ∧
    ∀ s t : State, step s = .next t →
      t.events ∈ eventLists ∧ (t.events ≠ [] → ∃ arrivals, exec .tick { s with inbox := arrivals } = .next t)

/-- The block raises no exception (60_exceptions.md): every command is defined in every state, and while only admitted accesses arrive no run
ever stops. -/
def Obligations.AdmittedRequestsNeverStop : Prop :=
  (∀ (i : Instr) (s : State), s.cfg.legal = true → ∃ t, exec i s = .next t) ∧
    ∀ (s : State) (n : Nat), s.cfg.legal = true → (∀ a ∈ s.inbox, arrivalAdmitted s.cfg a = true) →
      ∃ t, run n s = .next t

/-- 30_encoding.md R102, the expansions and what they come to: `TICKN n` is `n` TICK commands or `n` pulses of `tick_in`; `RLY_SET` is one of the two relay commands or an error;
`FT_RESTART #d` is `FT_START #d` alone. -/
def Obligations.PseudoInstructionsExpand : Prop :=
  (∀ (s : State) (n : Nat), s.cfg.legal = true →
    expandLine s.cfg (.tickN n) = (List.replicate n (expandLine s.cfg (.command .tick))).flatten ∧
      run n { s with inbox := expandLine s.cfg (.tickN n) ++ s.inbox } = runTicks n s) ∧
    (∀ (c : Params) (b : Nat),
      assembleLine c (.rlySet b) =
        if b = 1 then assembleLine c (.command .rlyEnable)
        else if b = 0 then assembleLine c (.command .rlyDisable) else none) ∧
    ∀ (s : State) (d : Nat), d ≤ 65535 → Accepting s →
      expandLine s.cfg (.ftRestart d) = expandLine s.cfg (.command .ftStop) ++ expandLine s.cfg (.command (.ftStart d)) ∧
      run 2 { s with inbox := expandLine s.cfg (.ftRestart d) ++ s.inbox } =
        run 1 { s with inbox := expandLine s.cfg (.command (.ftStart d)) ++ s.inbox }

/-- The rates of the table this hardware takes with `TPS` = 500 (44_dispatcher.md, rates under the default table; the table is the spec's own
choice D12): UI at every ticks value 1 mod 16, SENSOR at 2 and 258, RELAY at 3 and 259. -/
def Obligations.DefaultTableSelectsStatedTicks : Prop :=
  ∀ s : State, Accepting s → s.cfg.tps = 500 → s.cfg.fanout = hardwareFanout → upTicks s.up < 500 →
    ∃ t, exec .tick s = .next t ∧ upTicks t.up = (upTicks s.up + 1) % 500 ∧
      (.uiRefresh ∈ t.events ↔ upTicks t.up % 16 = 1) ∧
      (.sensorStart ∈ t.events ↔ upTicks t.up = 2 ∨ upTicks t.up = 258) ∧
      (nextTask s = .relay ↔ upTicks t.up = 3 ∨ upTicks t.up = 259)
end

