-- ==== Sys2Proof/Laws/Fields.lean ====
section
/-! SUPPORT. Bit fields and byte lanes as arithmetic on numbers. -/

namespace Sys2Proof

theorem field_lt {n : Nat} (v : BitVec n) (lo w : Nat) : field v lo w < 2 ^ w :=
  Nat.mod_lt _ (Nat.two_pow_pos w)

/-- Replacing a field that lies inside the register loses nothing: the number is the sum of its three parts. -/
theorem toNat_setField {n : Nat} (v : BitVec n) (lo w x : Nat) (h : lo + w ≤ n) :
    (setField v lo w x).toNat = v.toNat / 2 ^ (lo + w) * 2 ^ (lo + w) + x % 2 ^ w * 2 ^ lo + v.toNat % 2 ^ lo := by
  obtain ⟨k, rfl⟩ := Nat.exists_eq_add_of_le h
  have hv := v.isLt
  have hlow : v.toNat % 2 ^ lo < 2 ^ lo := Nat.mod_lt _ (Nat.two_pow_pos lo)
  have hx : x % 2 ^ w + 1 ≤ 2 ^ w := Nat.mod_lt _ (Nat.two_pow_pos w)
  have hmid : (x % 2 ^ w + 1) * 2 ^ lo ≤ 2 ^ (lo + w) := by
    rw [Nat.pow_add, Nat.mul_comm (2 ^ lo)]
    exact Nat.mul_le_mul_right _ hx
  have hhigh : (v.toNat / 2 ^ (lo + w) + 1) * 2 ^ (lo + w) ≤ 2 ^ (lo + w + k) := by
    rw [Nat.pow_add 2 (lo + w) k, Nat.mul_comm (2 ^ (lo + w))]
    refine Nat.mul_le_mul_right _ ((Nat.div_lt_iff_lt_mul (Nat.two_pow_pos _)).2 ?_)
    rwa [← Nat.pow_add, Nat.add_comm k]
  rw [Nat.add_mul, Nat.one_mul] at hmid hhigh
  rw [setField, BitVec.toNat_ofNat, Nat.mod_eq_of_lt (by omega)]

/-- A word is the word of its four byte lanes (20_memory.md R68). -/
theorem toNat_wordOfLanes (b0 b1 b2 b3 : Byte) :
    (wordOfLanes b0 b1 b2 b3).toNat = b0.toNat + b1.toNat * 2 ^ 8 + b2.toNat * 2 ^ 16 + b3.toNat * 2 ^ 24 := by
  have h0 := b0.isLt
  have h1 := b1.isLt
  have h2 := b2.isLt
  have h3 := b3.isLt
  rw [wordOfLanes, BitVec.toNat_ofNat, Nat.mod_eq_of_lt (by omega)]

theorem toNat_laneByte (v : Word) (k : Nat) : (laneByte v k).toNat = v.toNat / 2 ^ (8 * k) % 2 ^ 8 := by
  simp [laneByte, field]

/-- The four lanes of a word give the word back. -/
theorem wordOfLanes_laneByte (v : Word) :
    wordOfLanes (laneByte v 0) (laneByte v 1) (laneByte v 2) (laneByte v 3) = v := by
  apply BitVec.eq_of_toNat_eq
  have hv := v.isLt
  simp only [toNat_wordOfLanes, toNat_laneByte]
  omega

/-- Decoding the lanes of a word decodes the word and leaves the rest. -/
theorem decodeBytes_wordLanes (v : Word) (rest : List Byte) :
    decodeBytes (wordLanes v ++ rest) = .ok (decode v, rest) := by
  simp [wordLanes, decodeBytes, wordOfLanes_laneByte]

/-- An encoded command as a number: its opcode and its operand, the reserved byte zero. -/
theorem toNat_encode (i : Instr) : (encode i).toNat = opcodeFor i % 256 * 2 ^ 24 + operandFor i % 65536 := by
  rw [encode, toNat_setField _ _ _ _ (by decide), toNat_setField _ _ _ _ (by decide)]
  simp
  omega

end Sys2Proof
end

