-- ==== Sys2Proof/Laws/State.lean ====
section
/-! SUPPORT. What each named update leaves in each field of the state, so that no proof unfolds a record update. -/

namespace Sys2Proof.Machine

/-! ### State.quiet -/

@[simp] theorem quiet_up (s : State) : s.quiet.up = s.up := rfl
@[simp] theorem quiet_ft (s : State) : s.quiet.ft = s.ft := rfl
@[simp] theorem quiet_phase (s : State) : s.quiet.phase = s.phase := rfl
@[simp] theorem quiet_enabled (s : State) : s.quiet.enabled = s.enabled := rfl
@[simp] theorem quiet_active (s : State) : s.quiet.active = s.active := rfl
@[simp] theorem quiet_hold (s : State) : s.quiet.hold = s.hold := rfl
@[simp] theorem quiet_pulse (s : State) : s.quiet.pulse = s.pulse := rfl
@[simp] theorem quiet_out (s : State) : s.quiet.out = s.out := rfl
@[simp] theorem quiet_ports (s : State) : s.quiet.ports = s.ports := rfl
@[simp] theorem quiet_rstN (s : State) : s.quiet.rstN = s.rstN := rfl
@[simp] theorem quiet_cfg (s : State) : s.quiet.cfg = s.cfg := rfl
@[simp] theorem quiet_inbox (s : State) : s.quiet.inbox = s.inbox := rfl
@[simp] theorem quiet_events (s : State) : s.quiet.events = [] := rfl
@[simp] theorem quiet_readData (s : State) : s.quiet.readData = none := rfl

/-! ### emit -/

@[simp] theorem emit_up (e : Event) (s : State) : (emit e s).up = s.up := rfl
@[simp] theorem emit_ft (e : Event) (s : State) : (emit e s).ft = s.ft := rfl
@[simp] theorem emit_phase (e : Event) (s : State) : (emit e s).phase = s.phase := rfl
@[simp] theorem emit_enabled (e : Event) (s : State) : (emit e s).enabled = s.enabled := rfl
@[simp] theorem emit_active (e : Event) (s : State) : (emit e s).active = s.active := rfl
@[simp] theorem emit_hold (e : Event) (s : State) : (emit e s).hold = s.hold := rfl
@[simp] theorem emit_pulse (e : Event) (s : State) : (emit e s).pulse = s.pulse := rfl
@[simp] theorem emit_out (e : Event) (s : State) : (emit e s).out = s.out := rfl
@[simp] theorem emit_ports (e : Event) (s : State) : (emit e s).ports = s.ports := rfl
@[simp] theorem emit_rstN (e : Event) (s : State) : (emit e s).rstN = s.rstN := rfl
@[simp] theorem emit_cfg (e : Event) (s : State) : (emit e s).cfg = s.cfg := rfl
@[simp] theorem emit_inbox (e : Event) (s : State) : (emit e s).inbox = s.inbox := rfl
@[simp] theorem emit_events (e : Event) (s : State) : (emit e s).events = s.events ++ [e] := rfl
@[simp] theorem emit_readData (e : Event) (s : State) : (emit e s).readData = s.readData := rfl

/-! ### resetRegisters -/

@[simp] theorem resetRegisters_up (s : State) : (resetRegisters s).up = 0 := rfl
@[simp] theorem resetRegisters_ft (s : State) : (resetRegisters s).ft = 0 := rfl
@[simp] theorem resetRegisters_phase (s : State) : (resetRegisters s).phase = 0 := rfl
@[simp] theorem resetRegisters_enabled (s : State) : (resetRegisters s).enabled = false := rfl
@[simp] theorem resetRegisters_active (s : State) : (resetRegisters s).active = false := rfl
@[simp] theorem resetRegisters_hold (s : State) : (resetRegisters s).hold = 0 := rfl
@[simp] theorem resetRegisters_pulse (s : State) : (resetRegisters s).pulse = 0 := rfl
@[simp] theorem resetRegisters_out (s : State) : (resetRegisters s).out = false := rfl
@[simp] theorem resetRegisters_ports (s : State) : (resetRegisters s).ports = s.ports := rfl
@[simp] theorem resetRegisters_rstN (s : State) : (resetRegisters s).rstN = s.rstN := rfl
@[simp] theorem resetRegisters_cfg (s : State) : (resetRegisters s).cfg = s.cfg := rfl
@[simp] theorem resetRegisters_inbox (s : State) : (resetRegisters s).inbox = s.inbox := rfl
@[simp] theorem resetRegisters_events (s : State) : (resetRegisters s).events = s.events := rfl
@[simp] theorem resetRegisters_readData (s : State) : (resetRegisters s).readData = s.readData := rfl

/-! ### clearUptime -/

@[simp] theorem clearUptime_up (s : State) : (clearUptime s).up = 0 := rfl
@[simp] theorem clearUptime_ft (s : State) : (clearUptime s).ft = s.ft := rfl
@[simp] theorem clearUptime_phase (s : State) : (clearUptime s).phase = s.phase := rfl
@[simp] theorem clearUptime_enabled (s : State) : (clearUptime s).enabled = s.enabled := rfl
@[simp] theorem clearUptime_active (s : State) : (clearUptime s).active = s.active := rfl
@[simp] theorem clearUptime_hold (s : State) : (clearUptime s).hold = s.hold := rfl
@[simp] theorem clearUptime_pulse (s : State) : (clearUptime s).pulse = s.pulse := rfl
@[simp] theorem clearUptime_out (s : State) : (clearUptime s).out = s.out := rfl
@[simp] theorem clearUptime_ports (s : State) : (clearUptime s).ports = s.ports := rfl
@[simp] theorem clearUptime_rstN (s : State) : (clearUptime s).rstN = s.rstN := rfl
@[simp] theorem clearUptime_cfg (s : State) : (clearUptime s).cfg = s.cfg := rfl
@[simp] theorem clearUptime_inbox (s : State) : (clearUptime s).inbox = s.inbox := rfl
@[simp] theorem clearUptime_events (s : State) : (clearUptime s).events = s.events := rfl
@[simp] theorem clearUptime_readData (s : State) : (clearUptime s).readData = s.readData := rfl

/-! ### startTimer -/

@[simp] theorem startTimer_up (d : Nat) (s : State) : (startTimer d s).up = s.up := rfl
@[simp] theorem startTimer_ft (d : Nat) (s : State) : (startTimer d s).ft = startValue d := rfl
@[simp] theorem startTimer_phase (d : Nat) (s : State) : (startTimer d s).phase = BitVec.ofNat 6 (upSeconds s.up) := rfl
@[simp] theorem startTimer_enabled (d : Nat) (s : State) : (startTimer d s).enabled = s.enabled := rfl
@[simp] theorem startTimer_active (d : Nat) (s : State) : (startTimer d s).active = s.active := rfl
@[simp] theorem startTimer_hold (d : Nat) (s : State) : (startTimer d s).hold = s.hold := rfl
@[simp] theorem startTimer_pulse (d : Nat) (s : State) : (startTimer d s).pulse = s.pulse := rfl
@[simp] theorem startTimer_out (d : Nat) (s : State) : (startTimer d s).out = s.out := rfl
@[simp] theorem startTimer_ports (d : Nat) (s : State) : (startTimer d s).ports = s.ports := rfl
@[simp] theorem startTimer_rstN (d : Nat) (s : State) : (startTimer d s).rstN = s.rstN := rfl
@[simp] theorem startTimer_cfg (d : Nat) (s : State) : (startTimer d s).cfg = s.cfg := rfl
@[simp] theorem startTimer_inbox (d : Nat) (s : State) : (startTimer d s).inbox = s.inbox := rfl
@[simp] theorem startTimer_events (d : Nat) (s : State) : (startTimer d s).events = s.events := rfl
@[simp] theorem startTimer_readData (d : Nat) (s : State) : (startTimer d s).readData = s.readData := rfl

/-! ### stopTimer -/

@[simp] theorem stopTimer_up (s : State) : (stopTimer s).up = s.up := rfl
@[simp] theorem stopTimer_ft (s : State) : (stopTimer s).ft = 0 := rfl
@[simp] theorem stopTimer_phase (s : State) : (stopTimer s).phase = s.phase := rfl
@[simp] theorem stopTimer_enabled (s : State) : (stopTimer s).enabled = s.enabled := rfl
@[simp] theorem stopTimer_active (s : State) : (stopTimer s).active = s.active := rfl
@[simp] theorem stopTimer_hold (s : State) : (stopTimer s).hold = s.hold := rfl
@[simp] theorem stopTimer_pulse (s : State) : (stopTimer s).pulse = s.pulse := rfl
@[simp] theorem stopTimer_out (s : State) : (stopTimer s).out = s.out := rfl
@[simp] theorem stopTimer_ports (s : State) : (stopTimer s).ports = s.ports := rfl
@[simp] theorem stopTimer_rstN (s : State) : (stopTimer s).rstN = s.rstN := rfl
@[simp] theorem stopTimer_cfg (s : State) : (stopTimer s).cfg = s.cfg := rfl
@[simp] theorem stopTimer_inbox (s : State) : (stopTimer s).inbox = s.inbox := rfl
@[simp] theorem stopTimer_events (s : State) : (stopTimer s).events = s.events := rfl
@[simp] theorem stopTimer_readData (s : State) : (stopTimer s).readData = s.readData := rfl

/-! ### setEnabled -/

@[simp] theorem setEnabled_up (b : Bool) (s : State) : (setEnabled b s).up = s.up := rfl
@[simp] theorem setEnabled_ft (b : Bool) (s : State) : (setEnabled b s).ft = s.ft := rfl
@[simp] theorem setEnabled_phase (b : Bool) (s : State) : (setEnabled b s).phase = s.phase := rfl
@[simp] theorem setEnabled_enabled (b : Bool) (s : State) : (setEnabled b s).enabled = b := rfl
@[simp] theorem setEnabled_active (b : Bool) (s : State) : (setEnabled b s).active = s.active := rfl
@[simp] theorem setEnabled_hold (b : Bool) (s : State) : (setEnabled b s).hold = s.hold := rfl
@[simp] theorem setEnabled_pulse (b : Bool) (s : State) : (setEnabled b s).pulse = s.pulse := rfl
@[simp] theorem setEnabled_out (b : Bool) (s : State) : (setEnabled b s).out = s.out := rfl
@[simp] theorem setEnabled_ports (b : Bool) (s : State) : (setEnabled b s).ports = s.ports := rfl
@[simp] theorem setEnabled_rstN (b : Bool) (s : State) : (setEnabled b s).rstN = s.rstN := rfl
@[simp] theorem setEnabled_cfg (b : Bool) (s : State) : (setEnabled b s).cfg = s.cfg := rfl
@[simp] theorem setEnabled_inbox (b : Bool) (s : State) : (setEnabled b s).inbox = s.inbox := rfl
@[simp] theorem setEnabled_events (b : Bool) (s : State) : (setEnabled b s).events = s.events := rfl
@[simp] theorem setEnabled_readData (b : Bool) (s : State) : (setEnabled b s).readData = s.readData := rfl

/-! ### expire -/

@[simp] theorem expire_up (s : State) : (expire s).up = s.up := rfl
@[simp] theorem expire_ft (s : State) : (expire s).ft = s.ft := rfl
@[simp] theorem expire_phase (s : State) : (expire s).phase = s.phase := rfl
@[simp] theorem expire_enabled (s : State) : (expire s).enabled = false := rfl
@[simp] theorem expire_active (s : State) : (expire s).active = s.active := rfl
@[simp] theorem expire_hold (s : State) : (expire s).hold = s.hold := rfl
@[simp] theorem expire_pulse (s : State) : (expire s).pulse = s.pulse := rfl
@[simp] theorem expire_out (s : State) : (expire s).out = s.out := rfl
@[simp] theorem expire_ports (s : State) : (expire s).ports = s.ports := rfl
@[simp] theorem expire_rstN (s : State) : (expire s).rstN = s.rstN := rfl
@[simp] theorem expire_cfg (s : State) : (expire s).cfg = s.cfg := rfl
@[simp] theorem expire_inbox (s : State) : (expire s).inbox = s.inbox := rfl
@[simp] theorem expire_events (s : State) : (expire s).events = s.events ++ [.fermComplete] := rfl
@[simp] theorem expire_readData (s : State) : (expire s).readData = s.readData := rfl

/-! ### buzzerStep -/

@[simp] theorem buzzerStep_up (m : Bool) (s : State) : (buzzerStep m s).up = s.up := rfl
@[simp] theorem buzzerStep_ft (m : Bool) (s : State) : (buzzerStep m s).ft = s.ft := rfl
@[simp] theorem buzzerStep_phase (m : Bool) (s : State) : (buzzerStep m s).phase = s.phase := rfl
@[simp] theorem buzzerStep_enabled (m : Bool) (s : State) : (buzzerStep m s).enabled = s.enabled := rfl
@[simp] theorem buzzerStep_active (m : Bool) (s : State) : (buzzerStep m s).active = s.active := rfl
@[simp] theorem buzzerStep_hold (m : Bool) (s : State) : (buzzerStep m s).hold = s.hold := rfl
@[simp] theorem buzzerStep_pulse (m : Bool) (s : State) : (buzzerStep m s).pulse = if s.cfg.bzCycleEnd ≤ increment s.cfg.pulseW s.pulse then 0 else increment s.cfg.pulseW s.pulse := rfl
@[simp] theorem buzzerStep_out (m : Bool) (s : State) : (buzzerStep m s).out = buzzerLevel s.cfg (increment s.cfg.pulseW s.pulse) m s.out := rfl
@[simp] theorem buzzerStep_ports (m : Bool) (s : State) : (buzzerStep m s).ports = s.ports := rfl
@[simp] theorem buzzerStep_rstN (m : Bool) (s : State) : (buzzerStep m s).rstN = s.rstN := rfl
@[simp] theorem buzzerStep_cfg (m : Bool) (s : State) : (buzzerStep m s).cfg = s.cfg := rfl
@[simp] theorem buzzerStep_inbox (m : Bool) (s : State) : (buzzerStep m s).inbox = s.inbox := rfl
@[simp] theorem buzzerStep_events (m : Bool) (s : State) : (buzzerStep m s).events = s.events := rfl
@[simp] theorem buzzerStep_readData (m : Bool) (s : State) : (buzzerStep m s).readData = s.readData := rfl

/-! ### noEffect -/

@[simp] theorem noEffect_up (s : State) : (noEffect s).up = s.up := rfl
@[simp] theorem noEffect_ft (s : State) : (noEffect s).ft = s.ft := rfl
@[simp] theorem noEffect_phase (s : State) : (noEffect s).phase = s.phase := rfl
@[simp] theorem noEffect_enabled (s : State) : (noEffect s).enabled = s.enabled := rfl
@[simp] theorem noEffect_active (s : State) : (noEffect s).active = s.active := rfl
@[simp] theorem noEffect_hold (s : State) : (noEffect s).hold = s.hold := rfl
@[simp] theorem noEffect_pulse (s : State) : (noEffect s).pulse = s.pulse := rfl
@[simp] theorem noEffect_out (s : State) : (noEffect s).out = s.out := rfl
@[simp] theorem noEffect_ports (s : State) : (noEffect s).ports = s.ports := rfl
@[simp] theorem noEffect_rstN (s : State) : (noEffect s).rstN = s.rstN := rfl
@[simp] theorem noEffect_cfg (s : State) : (noEffect s).cfg = s.cfg := rfl
@[simp] theorem noEffect_inbox (s : State) : (noEffect s).inbox = s.inbox := rfl
@[simp] theorem noEffect_events (s : State) : (noEffect s).events = s.events := rfl
@[simp] theorem noEffect_readData (s : State) : (noEffect s).readData = s.readData := rfl

/-! ### clockStep -/

@[simp] theorem clockStep_up (s : State) : (clockStep s).1.up = (advance s.cfg.tps s.up).1 := rfl
@[simp] theorem clockStep_ft (s : State) : (clockStep s).1.ft = s.ft := rfl
@[simp] theorem clockStep_phase (s : State) : (clockStep s).1.phase = s.phase := rfl
@[simp] theorem clockStep_enabled (s : State) : (clockStep s).1.enabled = s.enabled := rfl
@[simp] theorem clockStep_active (s : State) : (clockStep s).1.active = s.active := rfl
@[simp] theorem clockStep_hold (s : State) : (clockStep s).1.hold = s.hold := rfl
@[simp] theorem clockStep_pulse (s : State) : (clockStep s).1.pulse = s.pulse := rfl
@[simp] theorem clockStep_out (s : State) : (clockStep s).1.out = s.out := rfl
@[simp] theorem clockStep_ports (s : State) : (clockStep s).1.ports = s.ports := rfl
@[simp] theorem clockStep_rstN (s : State) : (clockStep s).1.rstN = s.rstN := rfl
@[simp] theorem clockStep_cfg (s : State) : (clockStep s).1.cfg = s.cfg := rfl
@[simp] theorem clockStep_inbox (s : State) : (clockStep s).1.inbox = s.inbox := rfl
@[simp] theorem clockStep_events (s : State) : (clockStep s).1.events = s.events := rfl
@[simp] theorem clockStep_readData (s : State) : (clockStep s).1.readData = s.readData := rfl

/-! ### State.withFetchWord -/

@[simp] theorem withFetchWord_up (nbits w : Nat) (s : State) : (s.withFetchWord nbits w).up = s.up := rfl
@[simp] theorem withFetchWord_ft (nbits w : Nat) (s : State) : (s.withFetchWord nbits w).ft = s.ft := rfl
@[simp] theorem withFetchWord_phase (nbits w : Nat) (s : State) : (s.withFetchWord nbits w).phase = s.phase := rfl
@[simp] theorem withFetchWord_enabled (nbits w : Nat) (s : State) : (s.withFetchWord nbits w).enabled = s.enabled := rfl
@[simp] theorem withFetchWord_active (nbits w : Nat) (s : State) : (s.withFetchWord nbits w).active = s.active := rfl
@[simp] theorem withFetchWord_hold (nbits w : Nat) (s : State) : (s.withFetchWord nbits w).hold = s.hold := rfl
@[simp] theorem withFetchWord_pulse (nbits w : Nat) (s : State) : (s.withFetchWord nbits w).pulse = s.pulse := rfl
@[simp] theorem withFetchWord_out (nbits w : Nat) (s : State) : (s.withFetchWord nbits w).out = s.out := rfl
@[simp] theorem withFetchWord_ports (nbits w : Nat) (s : State) : (s.withFetchWord nbits w).ports = s.ports := rfl
@[simp] theorem withFetchWord_rstN (nbits w : Nat) (s : State) : (s.withFetchWord nbits w).rstN = s.rstN := rfl
@[simp] theorem withFetchWord_cfg (nbits w : Nat) (s : State) : (s.withFetchWord nbits w).cfg = s.cfg := rfl
@[simp] theorem withFetchWord_inbox (nbits w : Nat) (s : State) : (s.withFetchWord nbits w).inbox = commandWrite s.cfg (BitVec.ofNat 32 (w % 2 ^ nbits)) :: s.inbox := rfl
@[simp] theorem withFetchWord_events (nbits w : Nat) (s : State) : (s.withFetchWord nbits w).events = s.events := rfl
@[simp] theorem withFetchWord_readData (nbits w : Nat) (s : State) : (s.withFetchWord nbits w).readData = s.readData := rfl

/-! ### withTicks -/

@[simp] theorem withTicks_up (n : Nat) (s : State) : (withTicks n s).up = s.up := rfl
@[simp] theorem withTicks_ft (n : Nat) (s : State) : (withTicks n s).ft = s.ft := rfl
@[simp] theorem withTicks_phase (n : Nat) (s : State) : (withTicks n s).phase = s.phase := rfl
@[simp] theorem withTicks_enabled (n : Nat) (s : State) : (withTicks n s).enabled = s.enabled := rfl
@[simp] theorem withTicks_active (n : Nat) (s : State) : (withTicks n s).active = s.active := rfl
@[simp] theorem withTicks_hold (n : Nat) (s : State) : (withTicks n s).hold = s.hold := rfl
@[simp] theorem withTicks_pulse (n : Nat) (s : State) : (withTicks n s).pulse = s.pulse := rfl
@[simp] theorem withTicks_out (n : Nat) (s : State) : (withTicks n s).out = s.out := rfl
@[simp] theorem withTicks_ports (n : Nat) (s : State) : (withTicks n s).ports = s.ports := rfl
@[simp] theorem withTicks_rstN (n : Nat) (s : State) : (withTicks n s).rstN = s.rstN := rfl
@[simp] theorem withTicks_cfg (n : Nat) (s : State) : (withTicks n s).cfg = s.cfg := rfl
@[simp] theorem withTicks_inbox (n : Nat) (s : State) : (withTicks n s).inbox = List.replicate n .tickIn ++ s.inbox := rfl
@[simp] theorem withTicks_events (n : Nat) (s : State) : (withTicks n s).events = s.events := rfl
@[simp] theorem withTicks_readData (n : Nat) (s : State) : (withTicks n s).readData = s.readData := rfl

end Sys2Proof.Machine
end

