-- ==== Sys2Proof/Laws/Ops.lean ====
section
/-! SUPPORT. What the shared operations can do, each said once: the sequencer's gate, a command, a bus access, a step. -/

namespace Sys2Proof.Machine

/-! ### The sequencer's gate -/

theorem operate_accepting (f : State → State) {s : State} (h : Accepting s) : operate f s = .next (f s.quiet) := by
  simp [operate, h.1, h.2]

theorem operate_dropped (f : State → State) {s : State} (hl : s.cfg.legal = true) (hr : s.rstN = false) :
    operate f s = .next s.quiet := by
  simp [operate, hl, hr]

theorem operate_illegal (f : State → State) {s : State} (h : s.cfg.legal = false) : operate f s = .refused .tpsOutOfRange := by
  simp [operate, h]

/-- What an operation that answers a next state has done. -/
theorem operate_next_iff (f : State → State) (s t : State) :
    operate f s = .next t ↔ s.cfg.legal = true ∧ t = if s.rstN then f s.quiet else s.quiet := by
  cases hl : s.cfg.legal <;> cases hr : s.rstN <;> simp [operate, hl, hr, eq_comm]

/-! ### Commands -/

/-- The effect of a command on the state at the start of its operation. -/
def effectOf : Instr → State → State
  | .nop => noEffect
  | .tick => tickOperation
  | .clkReset => clearUptime
  | .ftStart d => startTimer d
  | .ftStop => stopTimer
  | .rlyEnable => setEnabled true
  | .rlyDisable => setEnabled false

/-- Every command is its effect through the sequencer's gate. -/
theorem exec_eq_operate (i : Instr) (s : State) : exec i s = operate (effectOf i) s := by
  cases i <;> rfl

/-- What a command that answers a next state has done. -/
theorem exec_next_iff (i : Instr) (s t : State) :
    exec i s = .next t ↔ s.cfg.legal = true ∧ t = if s.rstN then effectOf i s.quiet else s.quiet := by
  rw [exec_eq_operate, operate_next_iff]

/-- Every command word is an effect through the sequencer's gate, reserved opcodes included. -/
theorem perform_eq_operate (w : Word) (s : State) :
    perform w s = operate (match decode w with | .op i => effectOf i | .noOperation _ => noEffect) s := by
  unfold perform
  cases decode w with
  | op i => exact exec_eq_operate i s
  | noOperation opc => rfl

/-! ### Steps of a TICK -/

theorem clockStep_carry (s : State) : (clockStep s).2 = (advance s.cfg.tps s.up).2 := rfl

theorem advance_of_lt {tps : Nat} {up : Word} (h : upTicks up + 1 < tps) :
    advance tps up = (setField up 0 9 (upTicks up + 1), false) := by
  simp [advance, Nat.not_le.2 h]

theorem advance_of_le {tps : Nat} {up : Word} (h : tps ≤ upTicks up + 1) :
    advance tps up = (carrySeconds (setField up 0 9 0), true) := by
  simp [advance, h]

/-- FT_TICK that does not act leaves the timer. -/
theorem ftTick_of_not {ft : TimerWord} {phase : PhaseWord} {sec : Nat} (h : ¬ (ft ≠ 0 ∧ sec = phase.toNat)) :
    ftTick ft phase sec = (ft, false) := by
  rw [ftTick, if_neg h]

theorem ftTick_of {ft : TimerWord} {phase : PhaseWord} {sec : Nat} (h : ft ≠ 0 ∧ sec = phase.toNat) :
    ftTick ft phase sec = (decrementTimer ft, decide (decrementTimer ft = 0)) := by
  rw [ftTick, if_pos h]

/-- What the fermentation step writes, whether or not the countdown expires. -/
theorem fermentationStep_eq (s : State) :
    fermentationStep s =
      if (ftTick s.ft s.phase (upSeconds s.up)).2 then expire { s with ft := (ftTick s.ft s.phase (upSeconds s.up)).1 }
      else { s with ft := (ftTick s.ft s.phase (upSeconds s.up)).1 } := rfl

/-- What a TICK does, its steps named. -/
theorem tickOperation_eq (s : State) :
    tickOperation s =
      fanOutStep (if (advance s.cfg.tps s.up).2 then fermentationStep (clockStep s).1 else (clockStep s).1) := rfl

/-- A register stays within its width. -/
theorem increment_lt (w n : Nat) : increment w n < 2 ^ w := Nat.mod_lt _ (Nat.two_pow_pos w)

/-- Below the last value of its width an increment adds one. -/
theorem increment_of_lt {w n : Nat} (h : n + 1 < 2 ^ w) : increment w n = n + 1 := Nat.mod_eq_of_lt h

/-- At the last value of its width an increment wraps to 0 (42_relay_controller.md R191). -/
theorem increment_of_eq {w n : Nat} (h : n + 1 = 2 ^ w) : increment w n = 0 := by
  rw [increment, h, Nat.mod_self]

/-- What a port shows is the balanced residue of what is driven on it. -/
theorem signedLevel_eq (w : Nat) (x : Int) : signedLevel w x = x.bmod (2 ^ w) := BitVec.toInt_ofInt ..

/-- A value that fits in the width of a port is shown as it is. -/
theorem signedLevel_of_fits {w : Nat} {x : Int} (hl : -(2 ^ w) ≤ 2 * x) (hu : 2 * x < 2 ^ w) : signedLevel w x = x := by
  rw [signedLevel_eq]
  apply Int.bmod_eq_of_le_mul_two <;> push_cast <;> omega

/-! Clearing the pulse count writes `PULSE` only (42_relay_controller.md R193). -/

@[simp] theorem clearPulse_up (s : State) : (clearPulse s).up = s.up := by
  unfold clearPulse
  split <;> rfl
@[simp] theorem clearPulse_ft (s : State) : (clearPulse s).ft = s.ft := by
  unfold clearPulse
  split <;> rfl
@[simp] theorem clearPulse_phase (s : State) : (clearPulse s).phase = s.phase := by
  unfold clearPulse
  split <;> rfl
@[simp] theorem clearPulse_enabled (s : State) : (clearPulse s).enabled = s.enabled := by
  unfold clearPulse
  split <;> rfl
@[simp] theorem clearPulse_active (s : State) : (clearPulse s).active = s.active := by
  unfold clearPulse
  split <;> rfl
@[simp] theorem clearPulse_hold (s : State) : (clearPulse s).hold = s.hold := by
  unfold clearPulse
  split <;> rfl
@[simp] theorem clearPulse_out (s : State) : (clearPulse s).out = s.out := by
  unfold clearPulse
  split <;> rfl
@[simp] theorem clearPulse_ports (s : State) : (clearPulse s).ports = s.ports := by
  unfold clearPulse
  split <;> rfl
@[simp] theorem clearPulse_rstN (s : State) : (clearPulse s).rstN = s.rstN := by
  unfold clearPulse
  split <;> rfl
@[simp] theorem clearPulse_cfg (s : State) : (clearPulse s).cfg = s.cfg := by
  unfold clearPulse
  split <;> rfl
@[simp] theorem clearPulse_inbox (s : State) : (clearPulse s).inbox = s.inbox := by
  unfold clearPulse
  split <;> rfl
@[simp] theorem clearPulse_events (s : State) : (clearPulse s).events = s.events := by
  unfold clearPulse
  split <;> rfl
@[simp] theorem clearPulse_readData (s : State) : (clearPulse s).readData = s.readData := by
  unfold clearPulse
  split <;> rfl
@[simp] theorem clearPulse_pulse (s : State) : (clearPulse s).pulse = if s.cfg.buzzer then 0 else s.pulse := by
  unfold clearPulse
  split <;> rfl

theorem relayInvoke_of_enabled {s : State} (h : s.enabled = true) : relayInvoke s = hysteresis (clearPulse s) := by
  simp [relayInvoke, h]

theorem relayInvoke_of_disabled {s : State} (h : s.enabled = false) : relayInvoke s = idleController s := by
  simp [relayInvoke, h]

theorem idleController_basic {s : State} (h : s.cfg.buzzer = false) : idleController s = { s with out := s.ports.mode } := by
  simp [idleController, h]

theorem idleController_buzzer {s : State} (h : s.cfg.buzzer = true) : idleController s = buzzerStep s.ports.mode s := by
  simp [idleController, h]

/-- The hysteresis algorithm writes at most `ACTIVE`, `HOLD` and `OUT` (42_relay_controller.md R180). -/
theorem hysteresis_eq (s : State) :
    hysteresis s =
      { s with active := (hysteresis s).active, hold := (hysteresis s).hold, out := (hysteresis s).out } := by
  unfold hysteresis
  dsimp only
  repeat' split
  all_goals rfl

/-- A relay invocation writes at most `ACTIVE`, `HOLD`, `PULSE` and `OUT` (42_relay_controller.md R180). -/
theorem relayInvoke_eq (s : State) :
    relayInvoke s =
      { s with
        active := (relayInvoke s).active
        hold := (relayInvoke s).hold
        pulse := (relayInvoke s).pulse
        out := (relayInvoke s).out } := by
  rcases Bool.eq_false_or_eq_true s.enabled with he | he
  · rw [relayInvoke_of_enabled he, hysteresis_eq (clearPulse s)]
    cases hb : s.cfg.buzzer <;> simp [clearPulse, hb]
  · rcases Bool.eq_false_or_eq_true s.cfg.buzzer with hb | hb
    · rw [relayInvoke_of_disabled he, idleController_buzzer hb]
      rfl
    · rw [relayInvoke_of_disabled he, idleController_basic hb]

@[simp] theorem relayInvoke_up (s : State) : (relayInvoke s).up = s.up := by rw [relayInvoke_eq]
@[simp] theorem relayInvoke_ft (s : State) : (relayInvoke s).ft = s.ft := by rw [relayInvoke_eq]
@[simp] theorem relayInvoke_phase (s : State) : (relayInvoke s).phase = s.phase := by rw [relayInvoke_eq]
@[simp] theorem relayInvoke_enabled (s : State) : (relayInvoke s).enabled = s.enabled := by rw [relayInvoke_eq]
@[simp] theorem relayInvoke_ports (s : State) : (relayInvoke s).ports = s.ports := by rw [relayInvoke_eq]
@[simp] theorem relayInvoke_rstN (s : State) : (relayInvoke s).rstN = s.rstN := by rw [relayInvoke_eq]
@[simp] theorem relayInvoke_cfg (s : State) : (relayInvoke s).cfg = s.cfg := by rw [relayInvoke_eq]
@[simp] theorem relayInvoke_inbox (s : State) : (relayInvoke s).inbox = s.inbox := by rw [relayInvoke_eq]
@[simp] theorem relayInvoke_events (s : State) : (relayInvoke s).events = s.events := by rw [relayInvoke_eq]
@[simp] theorem relayInvoke_readData (s : State) : (relayInvoke s).readData = s.readData := by rw [relayInvoke_eq]

/-! Whatever the fan-out selects, it leaves what a relay invocation leaves, the events apart. -/

@[simp] theorem runTask_up (k : Task) (s : State) : (runTask k s).up = s.up := by cases k <;> simp [runTask]
@[simp] theorem runTask_ft (k : Task) (s : State) : (runTask k s).ft = s.ft := by cases k <;> simp [runTask]
@[simp] theorem runTask_phase (k : Task) (s : State) : (runTask k s).phase = s.phase := by cases k <;> simp [runTask]
@[simp] theorem runTask_enabled (k : Task) (s : State) : (runTask k s).enabled = s.enabled := by cases k <;> simp [runTask]
@[simp] theorem runTask_ports (k : Task) (s : State) : (runTask k s).ports = s.ports := by cases k <;> simp [runTask]
@[simp] theorem runTask_rstN (k : Task) (s : State) : (runTask k s).rstN = s.rstN := by cases k <;> simp [runTask]
@[simp] theorem runTask_cfg (k : Task) (s : State) : (runTask k s).cfg = s.cfg := by cases k <;> simp [runTask]
@[simp] theorem runTask_inbox (k : Task) (s : State) : (runTask k s).inbox = s.inbox := by cases k <;> simp [runTask]
@[simp] theorem runTask_readData (k : Task) (s : State) : (runTask k s).readData = s.readData := by cases k <;> simp [runTask]

/-! The fermentation step writes at most `FT`, `ENABLED` and the events. -/

@[simp] theorem fermentationStep_up (s : State) : (fermentationStep s).up = s.up := by
  rw [fermentationStep_eq]
  split <;> rfl
@[simp] theorem fermentationStep_phase (s : State) : (fermentationStep s).phase = s.phase := by
  rw [fermentationStep_eq]
  split <;> rfl
@[simp] theorem fermentationStep_active (s : State) : (fermentationStep s).active = s.active := by
  rw [fermentationStep_eq]
  split <;> rfl
@[simp] theorem fermentationStep_hold (s : State) : (fermentationStep s).hold = s.hold := by
  rw [fermentationStep_eq]
  split <;> rfl
@[simp] theorem fermentationStep_pulse (s : State) : (fermentationStep s).pulse = s.pulse := by
  rw [fermentationStep_eq]
  split <;> rfl
@[simp] theorem fermentationStep_out (s : State) : (fermentationStep s).out = s.out := by
  rw [fermentationStep_eq]
  split <;> rfl
@[simp] theorem fermentationStep_ports (s : State) : (fermentationStep s).ports = s.ports := by
  rw [fermentationStep_eq]
  split <;> rfl
@[simp] theorem fermentationStep_rstN (s : State) : (fermentationStep s).rstN = s.rstN := by
  rw [fermentationStep_eq]
  split <;> rfl
@[simp] theorem fermentationStep_cfg (s : State) : (fermentationStep s).cfg = s.cfg := by
  rw [fermentationStep_eq]
  split <;> rfl
@[simp] theorem fermentationStep_inbox (s : State) : (fermentationStep s).inbox = s.inbox := by
  rw [fermentationStep_eq]
  split <;> rfl
@[simp] theorem fermentationStep_readData (s : State) : (fermentationStep s).readData = s.readData := by
  rw [fermentationStep_eq]
  split <;> rfl

/-! A TICK writes none of these. -/

@[simp] theorem tickOperation_phase (s : State) : (tickOperation s).phase = s.phase := by
  rw [tickOperation_eq, fanOutStep, runTask_phase]
  split <;> simp [clockStep]
@[simp] theorem tickOperation_ports (s : State) : (tickOperation s).ports = s.ports := by
  rw [tickOperation_eq, fanOutStep, runTask_ports]
  split <;> simp [clockStep]
@[simp] theorem tickOperation_rstN (s : State) : (tickOperation s).rstN = s.rstN := by
  rw [tickOperation_eq, fanOutStep, runTask_rstN]
  split <;> simp [clockStep]
@[simp] theorem tickOperation_cfg (s : State) : (tickOperation s).cfg = s.cfg := by
  rw [tickOperation_eq, fanOutStep, runTask_cfg]
  split <;> simp [clockStep]
@[simp] theorem tickOperation_inbox (s : State) : (tickOperation s).inbox = s.inbox := by
  rw [tickOperation_eq, fanOutStep, runTask_inbox]
  split <;> simp [clockStep]
@[simp] theorem tickOperation_readData (s : State) : (tickOperation s).readData = s.readData := by
  rw [tickOperation_eq, fanOutStep, runTask_readData]
  split <;> simp [clockStep]

/-! No command writes these. -/

@[simp] theorem effectOf_ports (i : Instr) (s : State) : (effectOf i s).ports = s.ports := by
  cases i <;> first | exact tickOperation_ports s | rfl
@[simp] theorem effectOf_rstN (i : Instr) (s : State) : (effectOf i s).rstN = s.rstN := by
  cases i <;> first | exact tickOperation_rstN s | rfl
@[simp] theorem effectOf_cfg (i : Instr) (s : State) : (effectOf i s).cfg = s.cfg := by
  cases i <;> first | exact tickOperation_cfg s | rfl
@[simp] theorem effectOf_inbox (i : Instr) (s : State) : (effectOf i s).inbox = s.inbox := by
  cases i <;> first | exact tickOperation_inbox s | rfl
@[simp] theorem effectOf_readData (i : Instr) (s : State) : (effectOf i s).readData = s.readData := by
  cases i <;> first | exact tickOperation_readData s | rfl

/-- What the fan-out can do, by the task it selects (44_dispatcher.md R245, R247 to R249). -/
theorem fanOutStep_cases (s : State) :
    (selectedTask s = .none ∧ fanOutStep s = s) ∨ (selectedTask s = .ui ∧ fanOutStep s = emit .uiRefresh s) ∨
      (selectedTask s = .sensor ∧ fanOutStep s = emit .sensorStart s) ∨
        (selectedTask s = .relay ∧ fanOutStep s = relayInvoke s) := by
  unfold fanOutStep
  cases selectedTask s <;> simp [runTask]

/-! ### The bus -/

/-- What admitting an access can answer. -/
theorem admit_cases (addr : Nat) (size : AccessSize) (s : State) (k : Nat → Result) :
    (∃ off, windowOffset s.cfg addr = some off ∧ size = .word ∧ off % 4 = 0 ∧ admitAccess addr size s k = k off) ∨
      (windowOffset s.cfg addr = none ∧ admitAccess addr size s k = .fault .outsideWindow) ∨
      ((windowOffset s.cfg addr).isSome ∧ size ≠ .word ∧ admitAccess addr size s k = .refused .narrowAccess) ∨
      (∃ off, windowOffset s.cfg addr = some off ∧ size = .word ∧ off % 4 ≠ 0 ∧
        admitAccess addr size s k = .refused .misalignedAccess) := by
  unfold admitAccess
  cases hoff : windowOffset s.cfg addr with
  | none => simp
  | some off => by_cases hs : size = .word <;> by_cases ha : off % 4 = 0 <;> simp [hs, ha]

/-- The offset of an address in the window. -/
theorem windowOffset_eq_some (c : Params) (addr off : Nat) :
    windowOffset c addr = some off ↔ addr = c.base + off ∧ off < 64 := by
  unfold windowOffset
  split <;> simp only [Option.some.injEq, reduceCtorEq, false_iff] <;> omega

theorem windowOffset_eq_none (c : Params) (addr : Nat) :
    windowOffset c addr = none ↔ addr < c.base ∨ c.base + 64 ≤ addr := by
  unfold windowOffset
  split <;> simp only [reduceCtorEq, false_iff, true_iff] <;> omega

theorem regAt_offsetOf (r : RegName) : regAt (offsetOf r) = r := by
  cases r <;> rfl

theorem offsetOf_lt (r : RegName) : offsetOf r < 64 := by
  cases r <;> decide

theorem offsetOf_aligned (r : RegName) : offsetOf r % 4 = 0 := by
  cases r <;> rfl

/-- A full, aligned access at a register's address is served at that register. -/
theorem admit_register (r : RegName) (s : State) (k : Nat → Result) :
    admitAccess (s.cfg.base + offsetOf r) .word s k = k (offsetOf r) := by
  have h : windowOffset s.cfg (s.cfg.base + offsetOf r) = some (offsetOf r) :=
    (windowOffset_eq_some _ _ _).2 ⟨rfl, offsetOf_lt r⟩
  simp [admitAccess, h, offsetOf_aligned]

/-- What a read that answers a next state has done. -/
theorem busRead_next {addr : Nat} {size : AccessSize} {s t : State} (h : busRead addr size s = .next t) :
    ∃ v, t = { s.quiet with readData := some v } := by
  unfold busRead at h
  rcases admit_cases addr size s _ with ⟨off, -, -, -, e⟩ | ⟨-, e⟩ | ⟨-, -, e⟩ | ⟨off, -, -, -, e⟩ <;> rw [e] at h <;> cases h
  exact ⟨_, rfl⟩

/-- What a write that answers a next state has done: its command through the gate, or nothing. -/
theorem busWrite_next {addr : Nat} {size : AccessSize} {data : Word} {s t : State}
    (h : busWrite addr size data s = .next t) : perform data s = .next t ∨ t = s.quiet := by
  unfold busWrite at h
  rcases admit_cases addr size s _ with ⟨off, -, -, -, e⟩ | ⟨-, e⟩ | ⟨-, -, e⟩ | ⟨off, -, -, -, e⟩ <;> rw [e] at h <;>
    try cases h
  split at h
  · exact .inl h
  · cases h
    exact .inr rfl

/-- A write of a word to `CMD` performs it (20_memory.md R63). -/
theorem serve_commandWrite (w : Word) (s : State) : serve (commandWrite s.cfg w) s = perform w s := by
  simp [serve, commandWrite, serveAccess, busWrite, cmdAddress, admit_register, regAt_offsetOf]

/-! ### A step -/

theorem step_legal {s : State} (h : s.cfg.legal = true) : step s = serveNext s := by
  simp [step, h]

theorem step_illegal {s : State} (h : s.cfg.legal = false) : step s = .refused .tpsOutOfRange := by
  simp [step, h]

/-- What a step that answers a next state has done: nothing arrived; or, on the state without the arrival, a command through the
sequencer's gate, a read, an ignored write, new input levels, or the reset pin. -/
theorem step_next_cases {s t : State} (h : step s = .next t) :
    s.cfg.legal = true ∧
      ((s.inbox = [] ∧ t = s.quiet) ∨
        ∃ a rest, s.inbox = a :: rest ∧
          ((∃ i inbox', exec i { s with inbox := inbox' } = .next t) ∨
            (∃ v, t = { ({ s with inbox := rest } : State).quiet with readData := v }) ∨
            (∃ p, a = .drive p ∧ t = { ({ s with inbox := rest } : State).quiet with ports := p }) ∨
            (∃ l, a = .resetPin l ∧ t = setResetPin l { s with inbox := rest }))) := by
  cases hl : s.cfg.legal
  · rw [step_illegal hl] at h
    cases h
  · refine ⟨rfl, ?_⟩
    rw [step_legal hl, serveNext] at h
    cases hin : s.inbox with
    | nil =>
      rw [hin] at h
      cases h
      exact .inl ⟨rfl, rfl⟩
    | cons a rest =>
      rw [hin] at h
      refine .inr ⟨a, rest, rfl, ?_⟩
      cases a with
      | tickIn => exact .inl ⟨.tick, rest, h⟩
      | tickInWith acc => exact .inl ⟨.tick, .access acc :: rest, h⟩
      | drive p =>
        cases h
        exact .inr (.inr (.inl ⟨p, rfl, rfl⟩))
      | resetPin l =>
        cases h
        exact .inr (.inr (.inr ⟨l, rfl, rfl⟩))
      | access acc =>
        cases acc with
        | read addr size =>
          obtain ⟨v, rfl⟩ := busRead_next h
          exact .inr (.inl ⟨some v, rfl⟩)
        | write addr size data =>
          rcases busWrite_next h with hp | rfl
          · unfold perform at hp
            cases hd : decode data with
            | op i => exact .inl ⟨i, rest, by rw [hd] at hp; exact hp⟩
            | noOperation opc => exact .inl ⟨.nop, rest, by rw [hd] at hp; exact hp⟩
          · exact .inr (.inl ⟨none, rfl⟩)

/-! ### Runs -/

theorem run_succ_of_next {n : Nat} {s t : State} (h : step s = .next t) : run (n + 1) s = run n t := by
  simp [run, h]

end Sys2Proof.Machine
end

