-- ==== Sys2Proof/Laws/Clock.lean ====
section
/-! SUPPORT. The packed uptime as five numbers: packing them, and what clearing a field and adding a unit do to them. -/

namespace Sys2Proof.Machine

/-- The word whose fields are `t` ticks, `s` seconds, `m` minutes, `h` hours and `d` days (10_state.md R21). -/
def packUptime (t s m h d : Nat) : Word := BitVec.ofNat 32 (t + 512 * s + 32768 * m + 2097152 * h + 67108864 * d)

theorem upTicks_lt (up : Word) : upTicks up < 512 := field_lt up 0 9
theorem upSeconds_lt (up : Word) : upSeconds up < 64 := field_lt up 9 6
theorem upMinutes_lt (up : Word) : upMinutes up < 64 := field_lt up 15 6
theorem upHours_lt (up : Word) : upHours up < 32 := field_lt up 21 5
theorem upDays_lt (up : Word) : upDays up < 64 := field_lt up 26 6

/-- The five fields fill the word (10_state.md R21). -/
theorem toNat_uptime (up : Word) :
    up.toNat = upTicks up + 512 * upSeconds up + 32768 * upMinutes up + 2097152 * upHours up + 67108864 * upDays up := by
  have hv := up.isLt
  simp only [upTicks, upSeconds, upMinutes, upHours, upDays, field]
  omega

theorem packUptime_fields (up : Word) :
    packUptime (upTicks up) (upSeconds up) (upMinutes up) (upHours up) (upDays up) = up := by
  apply BitVec.eq_of_toNat_eq
  have hv := up.isLt
  rw [packUptime, BitVec.toNat_ofNat, ← toNat_uptime, Nat.mod_eq_of_lt hv]

theorem toNat_packUptime {t s m h d : Nat} (ht : t < 512) (hs : s < 64) (hm : m < 64) (hh : h < 32) (hd : d < 64) :
    (packUptime t s m h d).toNat = t + 512 * s + 32768 * m + 2097152 * h + 67108864 * d := by
  rw [packUptime, BitVec.toNat_ofNat, Nat.mod_eq_of_lt (by omega)]

/-- The fields of a packed word are the numbers packed. -/
theorem fields_packUptime {t s m h d : Nat} (ht : t < 512) (hs : s < 64) (hm : m < 64) (hh : h < 32) (hd : d < 64) :
    upTicks (packUptime t s m h d) = t ∧ upSeconds (packUptime t s m h d) = s ∧ upMinutes (packUptime t s m h d) = m ∧
      upHours (packUptime t s m h d) = h ∧ upDays (packUptime t s m h d) = d := by
  simp only [upTicks, upSeconds, upMinutes, upHours, upDays, field, toNat_packUptime ht hs hm hh hd]
  omega

theorem setTicks_packUptime {t s m h d : Nat} (x : Nat) (ht : t < 512) (hs : s < 64) (hm : m < 64) (hh : h < 32) (hd : d < 64) :
    setField (packUptime t s m h d) 0 9 x = packUptime (x % 512) s m h d := by
  apply BitVec.eq_of_toNat_eq
  rw [toNat_setField _ _ _ _ (by decide), toNat_packUptime ht hs hm hh hd,
    toNat_packUptime (Nat.mod_lt _ (by decide)) hs hm hh hd]
  omega

theorem clearSeconds_packUptime {t s m h d : Nat} (ht : t < 512) (hs : s < 64) (hm : m < 64) (hh : h < 32) (hd : d < 64) :
    setField (packUptime t s m h d) 9 6 0 = packUptime t 0 m h d := by
  apply BitVec.eq_of_toNat_eq
  rw [toNat_setField _ _ _ _ (by decide), toNat_packUptime ht hs hm hh hd, toNat_packUptime ht (by decide) hm hh hd]
  omega

theorem clearMinutes_packUptime {t s m h d : Nat} (ht : t < 512) (hs : s < 64) (hm : m < 64) (hh : h < 32) (hd : d < 64) :
    setField (packUptime t s m h d) 15 6 0 = packUptime t s 0 h d := by
  apply BitVec.eq_of_toNat_eq
  rw [toNat_setField _ _ _ _ (by decide), toNat_packUptime ht hs hm hh hd, toNat_packUptime ht hs (by decide) hh hd]
  omega

theorem clearHours_packUptime {t s m h d : Nat} (ht : t < 512) (hs : s < 64) (hm : m < 64) (hh : h < 32) (hd : d < 64) :
    setField (packUptime t s m h d) 21 5 0 = packUptime t s m 0 d := by
  apply BitVec.eq_of_toNat_eq
  rw [toNat_setField _ _ _ _ (by decide), toNat_packUptime ht hs hm hh hd, toNat_packUptime ht hs hm (by decide) hd]
  omega

theorem addSecond_packUptime {t s m h d : Nat} :
    packUptime t s m h d + 0x00000200#32 = packUptime t (s + 1) m h d := by
  rw [packUptime, packUptime, ← BitVec.ofNat_add]
  congr 1
  omega

theorem addMinute_packUptime {t s m h d : Nat} :
    packUptime t s m h d + 0x00008000#32 = packUptime t s (m + 1) h d := by
  rw [packUptime, packUptime, ← BitVec.ofNat_add]
  congr 1
  omega

theorem addHour_packUptime {t s m h d : Nat} :
    packUptime t s m h d + 0x00200000#32 = packUptime t s m (h + 1) d := by
  rw [packUptime, packUptime, ← BitVec.ofNat_add]
  congr 1
  omega

/-- A unit of days onto day 63 wraps to day 0: no bit lies above the field (10_state.md R26). -/
theorem addDay_packUptime {t s m h d : Nat} :
    packUptime t s m h d + 0x04000000#32 = packUptime t s m h ((d + 1) % 64) := by
  apply BitVec.eq_of_toNat_eq
  rw [packUptime, packUptime, ← BitVec.ofNat_add, BitVec.toNat_ofNat, BitVec.toNat_ofNat]
  omega

/-! ### The same on every word, reachable or not (40_clock.md R126) -/

theorem upTicks_eq (up : Word) : upTicks up = up.toNat % 512 := by simp [upTicks, field]
theorem upSeconds_eq (up : Word) : upSeconds up = up.toNat / 512 % 64 := rfl
theorem upMinutes_eq (up : Word) : upMinutes up = up.toNat / 32768 % 64 := rfl
theorem upHours_eq (up : Word) : upHours up = up.toNat / 2097152 % 32 := rfl
theorem upDays_eq (up : Word) : upDays up = up.toNat / 67108864 % 64 := rfl

/-- Clearing a seconds field of 60 and adding a minute is one add. -/
theorem clearSeconds_addMinute {u : Word} (h : upSeconds u = 60) : setField u 9 6 0 + 0x00008000#32 = u + 0x800#32 := by
  apply BitVec.eq_of_toNat_eq
  rw [upSeconds_eq] at h
  have hu := u.isLt
  rw [BitVec.toNat_add, BitVec.toNat_add, toNat_setField u 9 6 0 (by decide), BitVec.toNat_ofNat, BitVec.toNat_ofNat]
  norm_num only [] at hu ⊢
  omega

/-- Clearing a minutes field of 60 and adding an hour is one add. -/
theorem clearMinutes_addHour {u : Word} (h : upMinutes u = 60) : setField u 15 6 0 + 0x00200000#32 = u + 0x20000#32 := by
  apply BitVec.eq_of_toNat_eq
  rw [upMinutes_eq] at h
  have hu := u.isLt
  rw [BitVec.toNat_add, BitVec.toNat_add, toNat_setField u 15 6 0 (by decide), BitVec.toNat_ofNat, BitVec.toNat_ofNat]
  norm_num only [] at hu ⊢
  omega

/-- Clearing an hours field of 24 and adding a day is one add. -/
theorem clearHours_addDay {u : Word} (h : upHours u = 24) : setField u 21 5 0 + 0x04000000#32 = u + 0x1000000#32 := by
  apply BitVec.eq_of_toNat_eq
  rw [upHours_eq] at h
  have hu := u.isLt
  rw [BitVec.toNat_add, BitVec.toNat_add, toNat_setField u 21 5 0 (by decide), BitVec.toNat_ofNat, BitVec.toNat_ofNat]
  norm_num only [] at hu ⊢
  omega

/-! ### The carries, from fields in range -/

/-- The carry into hours, from fields in range. -/
theorem carryHours_packUptime {t s m h d : Nat} (ht : t < 512) (hs : s < 64) (hm : m < 64) (hh : h < 24) (hd : d < 64) :
    carryHours (packUptime t s m h d) =
      if h = 23 then packUptime t s m 0 ((d + 1) % 64) else packUptime t s m (h + 1) d := by
  have e := fields_packUptime ht hs hm (show h + 1 < 32 by omega) hd
  have hc : (h + 1 = 24) = (h = 23) := by rw [eq_iff_iff]; omega
  simp only [carryHours, addHour_packUptime, e.2.2.2.1, hc,
    clearHours_packUptime ht hs hm (show h + 1 < 32 by omega) hd, addDay_packUptime]

/-- The carry into minutes, from fields in range. -/
theorem carryMinutes_packUptime {t s m h d : Nat} (ht : t < 512) (hs : s < 64) (hm : m < 60) (hh : h < 32) (hd : d < 64) :
    carryMinutes (packUptime t s m h d) =
      if m = 59 then carryHours (packUptime t s 0 h d) else packUptime t s (m + 1) h d := by
  have e := fields_packUptime ht hs (show m + 1 < 64 by omega) hh hd
  have hc : (m + 1 = 60) = (m = 59) := by rw [eq_iff_iff]; omega
  simp only [carryMinutes, addMinute_packUptime, e.2.2.1, hc, clearMinutes_packUptime ht hs (show m + 1 < 64 by omega) hh hd]

/-- The carry into seconds, from fields in range. -/
theorem carrySeconds_packUptime {t s m h d : Nat} (ht : t < 512) (hs : s < 60) (hm : m < 64) (hh : h < 32) (hd : d < 64) :
    carrySeconds (packUptime t s m h d) =
      if s = 59 then carryMinutes (packUptime t 0 m h d) else packUptime t (s + 1) m h d := by
  have e := fields_packUptime ht (show s + 1 < 64 by omega) hm hh hd
  have hc : (s + 1 = 60) = (s = 59) := by rw [eq_iff_iff]; omega
  simp only [carrySeconds, addSecond_packUptime, e.2.1, hc, clearSeconds_packUptime ht (show s + 1 < 64 by omega) hm hh hd]

end Sys2Proof.Machine
end

