-- ==== Sys2Proof/Laws/PerInstr.lean ====
section
/-! SUPPORT. Statements about every command as syntax, one lemma per constructor. -/

namespace Sys2Proof.Laws

/-- The canonical word of a well-formed command holds its opcode in [31:24], zeros in [23:16] and its operand in [15:0] (30_encoding.md R90
to R94). -/
def EncodedFields.Statement (i : Instr) : Prop :=
  i.wellFormed = true →
    opcodeOf (encode i) = opcodeFor i ∧ field (encode i) 16 8 = 0 ∧ imm16Of (encode i) = operandFor i

theorem EncodedFields.nop : EncodedFields.Statement .nop := fun _ => by decide
theorem EncodedFields.tick : EncodedFields.Statement .tick := fun _ => by decide
theorem EncodedFields.clkReset : EncodedFields.Statement .clkReset := fun _ => by decide
theorem EncodedFields.ftStart (d : Nat) : EncodedFields.Statement (.ftStart d) := by
  intro hw
  have hd : d ≤ 65535 := of_decide_eq_true hw
  simp only [opcodeOf, imm16Of, field, toNat_encode, opcodeFor, operandFor]
  omega
theorem EncodedFields.ftStop : EncodedFields.Statement .ftStop := fun _ => by decide
theorem EncodedFields.rlyEnable : EncodedFields.Statement .rlyEnable := fun _ => by decide
theorem EncodedFields.rlyDisable : EncodedFields.Statement .rlyDisable := fun _ => by decide

end Sys2Proof.Laws
end

