-- ==== Sys2Proof/Laws/Timer.lean ====
section
/-! SUPPORT. The packed fermentation timer as two numbers: its fields, what one decrement does, and what FT_START loads. -/

namespace Sys2Proof.Machine

theorem ftMinutes_eq (ft : TimerWord) : ftMinutes ft = ft.toNat % 64 := by simp [ftMinutes, field]

theorem ftHours_eq (ft : TimerWord) : ftHours ft = ft.toNat / 64 := by
  have h := ft.isLt
  simp only [ftHours, field]
  omega

/-- The two fields fill the register (10_state.md R27). -/
theorem toNat_timer (ft : TimerWord) : ft.toNat = 64 * ftHours ft + ftMinutes ft := by
  rw [ftMinutes_eq, ftHours_eq]
  omega

/-- The timer is zero exactly when both of its fields are. -/
theorem timer_eq_zero_iff (ft : TimerWord) : ft = 0 ↔ ft.toNat = 0 := by
  rw [← BitVec.toNat_inj]
  rfl

/-- One decrement of an active timer as arithmetic on the packed value: a minute is 1, and borrowing an hour of 64 to leave 59 minutes is 5
(41_fermentation_timer.md R154). -/
theorem toNat_decrementTimer {ft : TimerWord} (h : ft ≠ 0) :
    (decrementTimer ft).toNat = if 0 < ftMinutes ft then ft.toNat - 1 else ft.toNat - 5 := by
  have hft := ft.isLt
  have hne : ft.toNat ≠ 0 := fun e => h ((timer_eq_zero_iff ft).2 e)
  unfold decrementTimer
  split
  · rw [toNat_setField _ _ _ _ (by decide)]
    simp only [ftMinutes_eq] at *
    omega
  · rw [toNat_setField _ _ _ _ (by decide), toNat_setField _ _ _ _ (by decide)]
    simp only [ftMinutes_eq, ftHours_eq] at *
    omega

/-- What FT_START loads, as a number (41_fermentation_timer.md R150, R151). -/
theorem toNat_startValue (d : Nat) : (startValue d).toNat = 64 * startHours d + 59 := by
  have h : startHours d < 1024 := by
    unfold startHours
    omega
  rw [startValue, toNat_setField _ _ _ _ (by decide), toNat_setField _ _ _ _ (by decide)]
  simp
  omega

end Sys2Proof.Machine
end

