-- ==== Sys2Proof/Tests/Slice0.lean ====
section
/-! SUPPORT. The model's own tests: words written out from the spec's encoding, refused ill-formed terms, vectors of 95_test_vectors.md on
one step each, and for every statement that has hypotheses a witness that meets them together. Every expected value is the spec's, or
computed by hand from its rules. -/

namespace Sys2Proof.Machine.Tests

/-! ### Helpers -/

/-- What `f` reads in the next state of a result, none if it stopped. -/
def nextOf {α : Type} (f : State → α) (r : Result) : Option α :=
  match r with
  | .next t => some (f t)
  | .fault _ => none
  | .refused _ => none

/-- The stop of a result, if it stopped. -/
def stopOf (r : Result) : Option (Fault ⊕ Refusal) :=
  match r with
  | .next _ => none
  | .fault e => some (.inl e)
  | .refused e => some (.inr e)

/-- Input levels. -/
def levels (temp thr hyst delay : Int) (mode : Bool) : Ports :=
  ⟨temp, thr, hyst, delay, mode⟩

/-- A variant of the hardware with its window at 0x1000 and the input levels of S4 (95_test_vectors.md). -/
def block (buzzer : Bool) : State := State.powerOn (hardwareParams buzzer 0x1000) (levels 203 200 16 1 true)

/-- The basic variant, running: seconds 5, ticks 5, a timer of 2 h 58 m. -/
def running : State := { block false with up := 0x00000A05, ft := 0x00BA, phase := 5, enabled := true }

/-- The state in which the next TICK of the basic variant selects RELAY without a carry. -/
def beforeRelay : State := { block false with up := 0x00000002 }

/-- The state in which the next TICK is the expiry TICK: 0 h 1 m left, entering second 1 of phase 1. -/
def beforeExpiry : State := { block false with up := 0x000001F3, ft := 0x0001, phase := 1, enabled := true }

/-- The state with one arrival. -/
def receiving (s : State) (a : Arrival) : State := { s with inbox := [a] }

/-- The state in which the host has just written a command word. -/
def commanded (s : State) (w : Word) : State := receiving s (commandWrite s.cfg w)

/-! ### Decoding: words written out bit by bit from 30_encoding.md R90 and R94 -/

theorem test_decode_nop : decode 0b00000000_00000000_0000000000000000#32 = .op .nop := by decide
theorem test_decode_tick : decode 0b00000001_00000000_0000000000000000#32 = .op .tick := by decide
theorem test_decode_clkReset : decode 0b00000010_00000000_0000000000000000#32 = .op .clkReset := by decide
theorem test_decode_ftStart : decode 0b00000011_00000000_0000000000011000#32 = .op (.ftStart 24) := by decide
theorem test_decode_ftStart_rsv : decode 0b00000011_10101011_0000000000000011#32 = .op (.ftStart 3) := by decide
theorem test_decode_ftStop_ignored_bits : decode 0b00000100_10101011_0001001000110100#32 = .op .ftStop := by decide
theorem test_decode_rlyEnable : decode 0b00000101_00000000_0000000000000000#32 = .op .rlyEnable := by decide
theorem test_decode_rlyDisable : decode 0b00000110_00000000_0000000000000000#32 = .op .rlyDisable := by decide
theorem test_decode_reserved_low : decode 0x07000000#32 = .noOperation 0x07 := by decide
theorem test_decode_reserved_high : decode 0xFF123456#32 = .noOperation 0xFF := by decide
theorem test_decodeBytes_lanes : decodeBytes [0x18, 0x00, 0x00, 0x03] = .ok (.op (.ftStart 24), []) := by rfl
theorem test_decodeBytes_truncated : decodeBytes [0x18, 0x00, 0x00] = .error .truncated := by rfl
theorem test_decodeTableWord_ftStart : decodeTableWord 32 0x03000003 = some (.ftStart 3) := by decide
theorem test_decodeTableWord_reserved : decodeTableWord 32 0x07000000 = none := by decide

/-! ### Ill-formed terms are refused -/

theorem test_wellFormed_refuses_duration : Instr.wellFormed (.ftStart 65536) = false := by decide
theorem test_legal_refuses_tps_0 : Params.legal { hardwareParams false 0 with tps := 0 } = false := by decide
theorem test_legal_refuses_tps_512 : Params.legal { hardwareParams false 0 with tps := 512 } = false := by decide
theorem test_asm_refuses_command : asmWellFormed (hardwareParams false 0) (.command (.ftStart 65536)) = false := by decide
theorem test_asm_refuses_raw : asmWellFormed (hardwareParams false 0) (.raw 0x100000000) = false := by decide
theorem test_asm_refuses_rlySet : asmWellFormed (hardwareParams false 0) (.rlySet 2) = false := by decide
theorem test_asm_refuses_ftRestart : asmWellFormed (hardwareParams false 0) (.ftRestart 65536) = false := by decide
theorem test_asm_refuses_temp : asmWellFormed (hardwareParams false 0) (.input 32768 0 0 0 0) = false := by decide
theorem test_asm_refuses_mode : asmWellFormed (hardwareParams false 0) (.input 0 0 0 0 2) = false := by decide

/-! ### Assembler text (30_encoding.md R101; 95_test_vectors.md P2 and P3) -/

theorem test_parse_ftStart : parseLine "FT_START #3            ; 0x03000003".toList = some (some (.command (.ftStart 3))) := by decide
theorem test_parse_input :
    parseLine "IN TEMP=-9, THR=200, HYST=16, DELAY=1, MODE=1".toList = some (some (.input (-9) 200 16 1 1)) := by decide
theorem test_assemble_text :
    assembleText (hardwareParams false 0) "RLY_SET #1\nRD STATUS".toList =
      some [.access (.write 0x18 .word 0x05000000), .access (.read 0x0C .word)] := by decide

/-! ### One step each -/

/-- V-TICK: NOP changes nothing. -/
theorem test_nop : nextOf id (step (commanded running 0x00000000)) = some running := by decide
/-- V-CLK 6: 0 23 59 59 499 carries into day 1. -/
theorem test_tick_carries_to_days :
    nextOf State.up (step (receiving { block false with up := 0x02FDF7F3 } .tickIn)) = some 0x04000000 := by decide
/-- P2: the expiry TICK clears the timer, disables the controller and fires one strobe. -/
theorem test_tick_expiry :
    nextOf (fun t => (t.ft, t.enabled, t.events)) (step (commanded beforeExpiry 0x01FFFFFF)) =
      some (0, false, [.fermComplete]) := by decide
/-- V-CLK 17. -/
theorem test_clkReset :
    nextOf (fun t => (t.up, t.ft, t.phase, t.enabled)) (step (commanded { running with up := 0x1D8F3CFA } 0x02000000)) =
      some (0, 0x00BA, 5, true) := by decide
/-- V-FT 5. -/
theorem test_ftStart_zero : nextOf (fun t => (t.ft, t.phase)) (step (commanded running 0x03000000)) = some (0xFFFB, 5) := by decide
/-- V-FT 7. -/
theorem test_ftStart_max : nextOf (fun t => (t.ft, t.phase)) (step (commanded running 0x0300FFFF)) = some (0xFFBB, 5) := by decide
/-- V-FT 10. -/
theorem test_ftStop :
    nextOf (fun t => (t.ft, t.phase, t.enabled, t.events)) (step (commanded running 0x04AB1234)) = some (0, 5, true, []) := by decide
/-- V-RLY 22. -/
theorem test_rlyEnable :
    nextOf (fun t => (t.enabled, t.active, t.hold)) (step (commanded { block false with active := true, hold := 5 } 0x05000000)) =
      some (true, true, 5) := by decide
/-- V-RLY 23: the output waits for the next invocation. -/
theorem test_rlyDisable :
    nextOf (fun t => (t.enabled, t.out)) (step (commanded { running with out := true } 0x06000000)) = some (false, true) := by decide
/-- V-TICK: FT_START #1 together with `tick_in` at `UP` = 0x000001F3 captures phase 1. -/
theorem test_simultaneous :
    nextOf (fun t => (t.up, t.phase))
      (run 2 (receiving { block false with up := 0x000001F3 } (.tickInWith (.write 0x1018 .word 0x03000001)))) =
      some (0x00000200, 1) := by decide

/-! ### Operations -/

/-- V-CLK 15: an unreachable encoding (40_clock.md R126). -/
theorem test_advance_unreachable : advance 500 0x001FF7F3 = (0x00200000, true) := by decide
/-- V-FT 13: the borrow. -/
theorem test_ftTick_borrow : ftTick 0x0080 7 7 = (0x007B, false) := by decide
/-- V-RLY 5: count 129 exceeds 128 and commits. -/
theorem test_relay_commit :
    (fun t => (t.active, t.hold, t.out)) (relayInvoke { block false with enabled := true, hold := 128 }) = (true, 129, true) := by decide
/-- V-RLY 14: `HYST` = -9 gives b = -2, and 1 < 2. -/
theorem test_relay_negative_hysteresis :
    (fun t => (t.active, t.hold, t.out))
      (relayInvoke { block false with enabled := true, active := true, ports := levels 1 0 (-9) 0 true }) = (false, 1, false) := by decide
/-- R191 at another width: with `HOLD_W` = 8 the count wraps from 255 to 0, which does not exceed 128. -/
theorem test_relay_hold_width :
    (fun t => (t.active, t.hold))
      (relayInvoke { block false with enabled := true, hold := 255, cfg := { hardwareParams false 0 with holdW := 8 } }) = (false, 0) := by
  decide
/-- R10 at two widths: 200 fits in 16 bits; 8 bits show it as -56. -/
theorem test_input_width : signedLevel 16 200 = 200 ∧ signedLevel 8 200 = -56 ∧ signedLevel 16 (-9) = -9 := by decide
/-- S5: invocation 6001 toggles. -/
theorem test_buzzer_toggles :
    (fun t => (t.out, t.pulse)) (relayInvoke { block true with pulse := 6000, out := true }) = (false, 6001) := by decide
/-- V-BZ 14: an unreachable count. -/
theorem test_buzzer_unreachable :
    (fun t => (t.out, t.pulse)) (relayInvoke { block true with pulse := 7000 }) = (true, 0) := by decide
/-- V-BUS 8: byte lanes of UPTIME. -/
theorem test_byte_lanes :
    (fun k => readByte { block false with up := 0x1D8F3CFA } (0x1000 + k)) <$> [0, 1, 2, 3] =
      [some 0xFA, some 0x3C, some 0x8F, some 0x1D] := by decide
/-- V-BUS 1, the extended variant. -/
theorem test_status_at_reset : readRegister .status (block true) = 0x00000010 := by decide
/-- V-BUS 7: a 16-bit read and a misaligned word read are refused. -/
theorem test_narrow_refused :
    stopOf (step (receiving (block false) (.access (.read 0x1000 .half)))) = some (.inr .narrowAccess) ∧
      stopOf (step (receiving (block false) (.access (.read 0x1002 .word)))) = some (.inr .misalignedAccess) := by decide

/-! ### Witnesses: a state and operands that meet a statement's hypotheses -/

/-- The invariant has a state that no register of is at its reset value. -/
theorem running_inv : Inv running :=
  ⟨by decide, by decide, by decide, by decide, by decide, by decide, by decide, by decide, by decide, by decide⟩

theorem witness_accepting : Accepting running := by decide
theorem witness_NopHasNoEffect : Accepting running ∧ 7 ≤ opcodeOf 0x07000000 ∧ 7 ≤ opcodeOf 0xFF000000 := by decide
theorem witness_ClkResetClearsUptimeOnly :
    Accepting running ∧ nextOf (fun t => decide (t.ft ≠ beforeExpiry.ft)) (exec .tick beforeExpiry) = some true := by decide
theorem witness_FtStartLoadsTimerAndPhase : (65535 ≤ 65535 ∧ Accepting running) ∧ 0 ≤ 65535 := by decide
theorem witness_FtStartDurationCorners :
    Accepting running ∧ (0 = 0 ∧ 0 ≤ 65535) ∧ (1 ≤ 1 ∧ 1 ≤ 1024) ∧ (1 ≤ 1024 ∧ 1024 ≤ 1024) ∧ (1025 ≤ 1025 ∧ 1025 ≤ 65535) ∧
      (1025 ≤ 65535 ∧ 65535 ≤ 65535) := by decide
theorem witness_RlyDisableClearsEnabledOnly :
    Accepting running ∧ running.cfg.buzzer = false ∧ Accepting (block true) ∧ (block true).cfg.buzzer = true := by decide
theorem witness_DisablingKeepsDecision :
    (nextOf (fun _ => ()) (exec .rlyEnable running)).isSome ∧ (nextOf (fun _ => ()) (exec .rlyDisable running)).isSome ∧
      (nextExpires beforeExpiry = true ∧ (nextOf (fun _ => ()) (exec .tick beforeExpiry)).isSome) ∧
      (beforeRelay.enabled = false ∧ (nextOf (fun _ => ()) (exec .tick beforeRelay)).isSome) := by decide
theorem witness_TickCountsUptimeModuloPeriod :
    Accepting { block false with up := 0xFEFDF7F3 } ∧ UptimeInRange 500 0xFEFDF7F3 := by decide
theorem witness_AdvanceIsRawPackedArithmetic : (1 ≤ 1 ∧ 1 ≤ 511) ∧ (1 ≤ 511 ∧ 511 ≤ 511) := by decide
theorem witness_AdvanceCarriesFieldByField :
    (1 ≤ 1 ∧ 1 ≤ 511 ∧ UptimeInRange 1 0x00007600) ∧ (1 ≤ 511 ∧ 511 ≤ 511 ∧ UptimeInRange 511 0x02FDF7FE) := by decide
theorem witness_DaysWrapSilently :
    Accepting { block false with up := 0xFEFDF7F3 } ∧ upDays 0xFEFDF7F3 = 63 ∧ upHours 0xFEFDF7F3 = 23 ∧ upMinutes 0xFEFDF7F3 = 59 ∧
      upSeconds 0xFEFDF7F3 = 59 ∧ upTicks 0xFEFDF7F3 + 1 = (block false).cfg.tps ∧ (block false).ft = 0 ∧
      fanOut (block false).cfg.fanout 0 = .none := by decide
theorem witness_TickWithoutCarryIncrementsRawWord : Accepting running ∧ nextCarries running = false := by decide
theorem witness_TickRunsAtMostOneTask :
    Accepting beforeRelay ∧ (nextOf (fun _ => ()) (exec .tick beforeRelay)).isSome ∧ nextTask beforeRelay = .relay ∧
      nextTask (block false) = .ui ∧ nextTask { block false with up := 1 } = .sensor ∧ nextTask { block false with up := 3 } = .none ∧
      Instr.nop ≠ .tick ∧ (nextOf (fun _ => ()) (exec .nop running)).isSome := by decide
theorem witness_ExpiryFiresOnceAndDisables :
    (Accepting beforeExpiry ∧ nextExpires beforeExpiry = true ∧ nextTask beforeExpiry ≠ .relay ∧
      beforeExpiry.cfg.fanout = hardwareFanout) ∧ (Accepting running ∧ nextExpires running = false) := by decide
theorem witness_FtTickDecrementsOrBorrows :
    ((0x00BB : TimerWord) ≠ 0 ∧ 5 = (5 : PhaseWord).toNat ∧ 0 < ftMinutes 0x00BB) ∧
      ((0x0040 : TimerWord) ≠ 0 ∧ 0 = (0 : PhaseWord).toNat ∧ ftMinutes 0x0040 = 0) ∧ 6 ≠ (5 : PhaseWord).toNat ∧
      ((block false).ft = 0 ∧ (nextOf (fun _ => ()) (exec .tick (block false))).isSome) := by decide
theorem witness_StoppedTimerStaysStopped :
    (∀ d, Instr.tick ≠ .ftStart d) ∧ (block false).ft = 0 ∧ (nextOf (fun _ => ()) (exec .tick (block false))).isSome :=
  ⟨nofun, by decide, by decide⟩
theorem witness_CountdownLengthInDecrements :
    (ftMinutes 0x00BB ≤ 59 ∧ 178 < remainingMinutes 0x00BB ∧ 0 < remainingMinutes 0x00BB) ∧ (1 ≤ 1 ∧ 1024 ≤ 1024) := by decide
theorem witness_TimerExpiresAtComputedTick :
    Inv running ∧ running.rstN = true ∧ (1 ≤ 1 ∧ 1024 ≤ 1024) ∧ ∃ s1, exec (.ftStart 1) running = .next s1 :=
  ⟨running_inv, by decide, by decide, _, rfl⟩
theorem witness_ClockResetMovesNextDecrement :
    Inv running ∧ running.rstN = true ∧ running.ft ≠ 0 ∧ running.phase ≠ 0 ∧ ∃ s1, exec .clkReset running = .next s1 :=
  ⟨running_inv, by decide, by decide, by decide, _, rfl⟩
theorem witness_ClockResetMovesNextDecrement_phase_0 :
    Inv { running with phase := 0 } ∧ { running with phase := 0 }.ft ≠ 0 ∧
      ∃ s1, exec .clkReset { running with phase := 0 } = .next s1 :=
  ⟨⟨by decide, by decide, by decide, by decide, by decide, by decide, by decide, by decide, by decide, by decide⟩, by decide, _, rfl⟩
theorem witness_ScalingsAreExact :
    (hardwareParams false 0).hystShift = 3 ∧ (hardwareParams false 0).delayShift = 7 ∧ 0 ≤ (levels 0 0 0 0 true).hyst.bmod (2 ^ (hardwareParams false 0).inW) ∧ (hardwareParams false 0).inW = 16 := by decide
/-- One state for each of the six cases, three of them on their boundary. -/
theorem witness_EnabledInvocationFollowsHysteresis :
    (let s := { block false with enabled := true, active := true, hold := 128, ports := levels 197 200 16 1 true }
     s.ports.temp.bmod (2 ^ s.cfg.inW) < s.ports.thr.bmod (2 ^ s.cfg.inW) - Int.fdiv (s.ports.hyst.bmod (2 ^ s.cfg.inW)) 8 ∧ s.ports.delay.bmod (2 ^ s.cfg.inW) * 128 < (((s.hold + 1) % 2 ^ s.cfg.holdW : Nat) : Int)) ∧
    (let s := { block false with enabled := true, active := true, hold := 127, ports := levels 197 200 16 1 true }
     s.ports.temp.bmod (2 ^ s.cfg.inW) < s.ports.thr.bmod (2 ^ s.cfg.inW) - Int.fdiv (s.ports.hyst.bmod (2 ^ s.cfg.inW)) 8 ∧ (((s.hold + 1) % 2 ^ s.cfg.holdW : Nat) : Int) ≤ s.ports.delay.bmod (2 ^ s.cfg.inW) * 128) ∧
    (let s := { block false with enabled := true, active := true, ports := levels 198 200 16 1 true }
     s.ports.thr.bmod (2 ^ s.cfg.inW) - Int.fdiv (s.ports.hyst.bmod (2 ^ s.cfg.inW)) 8 ≤ s.ports.temp.bmod (2 ^ s.cfg.inW)) ∧
    (let s := { block false with enabled := true, hold := 128 }
     s.ports.temp.bmod (2 ^ s.cfg.inW) > s.ports.thr.bmod (2 ^ s.cfg.inW) + Int.fdiv (s.ports.hyst.bmod (2 ^ s.cfg.inW)) 8 ∧ s.ports.delay.bmod (2 ^ s.cfg.inW) * 128 < (((s.hold + 1) % 2 ^ s.cfg.holdW : Nat) : Int)) ∧
    (let s := { block false with enabled := true, hold := 127 }
     s.ports.temp.bmod (2 ^ s.cfg.inW) > s.ports.thr.bmod (2 ^ s.cfg.inW) + Int.fdiv (s.ports.hyst.bmod (2 ^ s.cfg.inW)) 8 ∧ (((s.hold + 1) % 2 ^ s.cfg.holdW : Nat) : Int) ≤ s.ports.delay.bmod (2 ^ s.cfg.inW) * 128) ∧
    (let s := { block false with enabled := true, ports := levels 202 200 16 1 true }
     s.ports.temp.bmod (2 ^ s.cfg.inW) ≤ s.ports.thr.bmod (2 ^ s.cfg.inW) + Int.fdiv (s.ports.hyst.bmod (2 ^ s.cfg.inW)) 8) ∧
    (block false).cfg.hystShift = 3 ∧ (block false).cfg.delayShift = 7 := by decide
theorem witness_DisabledBasicControllerDrivesMode :
    beforeRelay.enabled = false ∧ beforeRelay.cfg.buzzer = false ∧ Accepting beforeRelay ∧ nextCarries beforeRelay = false ∧
      nextTask beforeRelay = .relay := by decide
theorem witness_CommitLeavesHoldAndMayReflip :
    let s := { block false with enabled := true, hold := 128 }
    let p := levels 197 200 16 1 true
    s.enabled = true ∧ outOfBand s = true ∧ holdLimit s.cfg s.ports < (s.hold : Int) + 1 ∧ s.hold + 2 < 2 ^ s.cfg.holdW ∧
      p.delay = s.ports.delay ∧ outOfBand { relayInvoke s with ports := p } = true := by decide
theorem witness_HoldWrapsAndLongDelaysNeverCommit :
    let s := { block false with enabled := true, hold := 0xFFFF, ports := levels 300 200 16 512 true }
    s.enabled = true ∧ ((2 ^ s.cfg.holdW : Nat) : Int) ≤ holdLimit s.cfg s.ports + 1 ∧ s.cfg.holdW = 16 ∧ s.cfg.delayShift = 7 ∧
      512 ≤ s.ports.delay.bmod (2 ^ s.cfg.inW) ∧ s.hold + 1 = 2 ^ s.cfg.holdW ∧
      outOfBand s = true := by decide
theorem witness_NonPositiveDelayCommitsAtOnce :
    (let s := { block false with enabled := true, ports := levels 300 200 16 (-1) true }
     s.enabled = true ∧ outOfBand s = true ∧ delaySample s.cfg s.ports < 0) ∧
    (let s := { block false with enabled := true, hold := 0xFFFE, ports := levels 300 200 16 0 true }
     s.enabled = true ∧ outOfBand s = true ∧ delaySample s.cfg s.ports = 0 ∧ (s.hold + 1) % 2 ^ s.cfg.holdW ≠ 0) := by decide
theorem witness_HoldOffLastsLimitPlusOne :
    let s := { block false with enabled := true }
    s.enabled = true ∧ s.hold = 0 ∧ outOfBand s = true ∧ 0 ≤ holdLimit s.cfg s.ports ∧ holdLimit s.cfg s.ports + 1 < ((2 ^ s.cfg.holdW : Nat) : Int) ∧
      ((128 : Nat) : Int) ≤ holdLimit s.cfg s.ports := by decide
theorem witness_BuzzerCycleIs6070Invocations :
    let s := block true
    s.enabled = false ∧ s.cfg.buzzer = true ∧ s.cfg.bzSettleEnd = 6000 ∧ s.cfg.bzBuzzEnd = 6010 ∧ s.cfg.bzCycleEnd = 6070 ∧ 6070 < 2 ^ s.cfg.pulseW ∧ s.pulse = 0 ∧
      1 ≤ 1 ∧ 1 ≤ 6070 := by decide
theorem witness_BuzzerStepFollowsItsPhases :
    (block true).enabled = false ∧ (block true).cfg.buzzer = true ∧ (levels (-5) 7 9 0 true).mode = (block true).ports.mode := by decide
theorem witness_EnabledInvocationClearsPulse :
    { block true with enabled := true, pulse := 100 }.enabled = true ∧ (block true).cfg.buzzer = true ∧ Accepting (block true) := by decide
theorem witness_ReadsHaveNoSideEffects :
    let s := { running with inbox := [.access (.read 0x103C .word), .access (.read 0x103C .word)] }
    s.cfg.legal = true ∧ s.cfg.base ≤ 0x103C ∧ 0x103C < s.cfg.base + 64 ∧ (0x103C - s.cfg.base) % 4 = 0 ∧
      s.inbox = .access (.read 0x103C .word) :: .access (.read 0x103C .word) :: [] := by decide
theorem witness_WritesOutsideCmdAreIgnored :
    let s := receiving running (.access (.write 0x1000 .word 0x12345678))
    s.cfg.legal = true ∧ s.cfg.base ≤ 0x1000 ∧ 0x1000 < s.cfg.base + 64 ∧ (0x1000 - s.cfg.base) % 4 = 0 ∧ 0x1000 ≠ s.cfg.base + 0x18 ∧
      s.inbox = .access (.write 0x1000 .word 0x12345678) :: [] := by decide
theorem witness_CmdIsWriteOnly :
    running.cfg.legal = true ∧
      (commanded running 0x01000000).inbox = .access (.write (running.cfg.base + 0x18) .word 0x01000000) :: [] ∧
      (receiving running (.access (.read 0x1018 .word))).inbox = .access (.read (running.cfg.base + 0x18) .word) :: [] := by decide
theorem witness_RegisterMapAccesses :
    Accepting running ∧ running.hold < 65536 ∧ running.pulse < 65536 ∧ ((0x00, running.up) : Nat × Word) ∈ [((0x00, running.up) : Nat × Word), (0x3C, 0)] ∧
      (0x00 < 64 ∧ 0x00 % 4 = 0) ∧ (0x18 < 64 ∧ 0x18 % 4 = 0) ∧ (0x3C < 64 ∧ 0x3C % 4 = 0) := by decide
theorem witness_StatusBitsReadAsLaidOut : running.rstN = true ∧ 5 ≤ 31 := by decide
theorem witness_ByteLanesAreLittleEndian : 0 < 4 ∧ 3 < 4 := by decide
theorem witness_CommandsLeaveOtherWindowBytes :
    (nextOf (fun _ => ()) (exec .rlyEnable running)).isSome ∧ windowOffset running.cfg 0x1000 = some 0 ∧ regAt 0 ∉ [RegName.status] := by decide
/-- The clauses at their boundaries: the first and the last byte of the window. -/
theorem witness_NarrowAndMisalignedAccessesAreRefused :
    let s := receiving running (.access (.read 0x1000 .half))
    let u := receiving running (.access (.write 0x103F .word 0))
    (s.cfg.legal = true ∧ s.cfg.base ≤ 0x1000 ∧ 0x1000 < s.cfg.base + 64 ∧ s.inbox = .access (.read 0x1000 .half) :: [] ∧
      AccessSize.half ≠ .word) ∧
    (u.cfg.base ≤ 0x103F ∧ 0x103F < u.cfg.base + 64 ∧ u.inbox = .access (.write 0x103F .word 0) :: [] ∧ (0x103F - u.cfg.base) % 4 ≠ 0) := by
  decide
/-- One address below the window, one above it. -/
theorem witness_AccessOutsideWindowFaults :
    let s := receiving running (.access (.read 0x0FFF .word))
    let u := receiving running (.access (.write 0x1040 .byte 0))
    (s.cfg.legal = true ∧ 0x0FFF < s.cfg.base ∧ s.inbox = .access (.read 0x0FFF .word) :: []) ∧
      (u.cfg.base + 64 ≤ 0x1040 ∧ u.inbox = .access (.write 0x1040 .byte 0) :: []) := by decide
theorem witness_ReservedOpcodesAndIgnoredBits :
    (7 ≤ opcodeOf 0x07000000 ∧ 7 ≤ opcodeOf 0xFF123456 ∧ Accepting running) ∧
      (opcodeOf 0x03AB0003 = opcodeOf 0x03000003 ∧ imm16Of 0x03AB0003 = imm16Of 0x03000003) ∧ opcodeOf 0x01FFFFFF = opcodeOf 0x01000000 := by
  decide
theorem witness_DecodeOfEncodeIsIdentity :
    Instr.wellFormed (.ftStart 0) = true ∧ Instr.wellFormed (.ftStart 65535) = true ∧ Instr.wellFormed .tick = true := by decide
theorem witness_StepRunsDecodedCommand :
    (commanded running 0x03000018).cfg.legal = true ∧
      (commanded running 0x03000018).inbox = .access (.write (running.cfg.base + 0x18) .word 0x03000018) :: [] ∧
      decode 0x03000018 = .op (.ftStart 24) := by decide
theorem witness_TickCommandIsTickPulse : running.cfg.legal = true ∧ Accepting running ∧ UptimeInRange running.cfg.tps running.up := by decide
theorem witness_SimultaneousTickComesFirst : Accepting beforeExpiry := by decide
theorem witness_ResetPinHoldsAndReleases :
    running.cfg.legal = true ∧ { block false with rstN := false }.cfg.legal = true ∧ { block false with rstN := false }.rstN = false := by decide
theorem witness_PowerOnRegistersAreZero : (hardwareParams true 0).legal = true ∧ 2 ≤ (hardwareParams true 0).tps := by decide
theorem witness_IllegalTpsIsRefused :
    { running with cfg := { running.cfg with tps := 0 } }.cfg.tps < 1 ∧
      511 < { running with cfg := { running.cfg with tps := 512 } }.cfg.tps := by decide
theorem witness_InvariantHoldsAtPowerOn : (hardwareParams true 0x1000).legal = true := by decide
theorem witness_StepKeepsInvariant : Inv running ∧ ∃ t, step running = .next t := ⟨running_inv, _, rfl⟩
theorem witness_ReachableRegistersStayInRange :
    (hardwareParams true 0).legal = true ∧
      ∃ t, run 2 { State.powerOn (hardwareParams true 0) Ports.zero with inbox := [.tickIn, .tickIn] } = .next t :=
  ⟨by decide, _, rfl⟩
theorem witness_StepNeverWritesConfigurationOrPorts :
    ∃ t, step (receiving running (.drive (levels 1 2 3 4 false))) = .next t := ⟨_, rfl⟩
theorem witness_UptimeHasThreeWriters :
    nextOf (fun t => decide (t.up ≠ running.up)) (step (receiving running .tickIn)) = some true ∧
      nextOf (fun t => decide (t.up ≠ running.up)) (step (commanded running 0x02000000)) = some true ∧
      nextOf (fun t => decide (t.up ≠ running.up)) (step (receiving running (.resetPin false))) = some true := by decide
theorem witness_RegistersHaveTheirWriters :
    nextOf (fun t => decide (t.ft ≠ running.ft)) (exec .ftStop running) = some true ∧
      nextOf (fun t => decide (t.phase ≠ running.phase)) (exec (.ftStart 1) { running with up := 0 }) = some true ∧
      ((block false).enabled = false ∧ nextOf State.enabled (exec .rlyEnable (block false)) = some true) ∧
      (beforeExpiry.enabled = true ∧ nextOf State.enabled (exec .tick beforeExpiry) = some false) ∧
      nextOf (fun t => decide (t.out ≠ beforeRelay.out)) (exec .tick beforeRelay) = some true ∧ running.cfg.buzzer = false := by decide
theorem witness_StrobesFireOnlyInsideTick :
    nextOf (fun t => decide (t.events ≠ [])) (step (receiving beforeExpiry .tickIn)) = some true := by decide
theorem witness_AdmittedRequestsNeverStop :
    let s := { running with inbox := [.tickInWith (.write 0x1018 .word 0), .access (.read 0x103C .word)] }
    s.cfg.legal = true ∧ ∀ a ∈ s.inbox, arrivalAdmitted s.cfg a = true := by decide
theorem witness_PseudoInstructionsExpand : running.cfg.legal = true ∧ 65535 ≤ 65535 ∧ Accepting running := by decide
theorem witness_DefaultTableSelectsStatedTicks :
    Accepting beforeRelay ∧ beforeRelay.cfg.tps = 500 ∧ beforeRelay.cfg.fanout = hardwareFanout ∧ upTicks beforeRelay.up < 500 := by decide

end Sys2Proof.Machine.Tests
end

section
/-! The scope of the model (00_scope.md R9): a configuration with `TPS` outside 1..511 gets no meaning. -/

namespace Sys2Proof

/-- The complement of `Params.legal_iff`. -/
theorem Params.legal_eq_false_iff (c : Params) : c.legal = false ↔ c.tps < 1 ∨ 511 < c.tps := by
  rw [← Bool.not_eq_true, Params.legal_iff]
  omega

end Sys2Proof

namespace Sys2Proof.Machine

/-- The sequencer's gate refuses every command under an illegal configuration, at either level of `rst_n`. -/
theorem exec_illegal (i : Instr) {s : State} (h : s.cfg.legal = false) : exec i s = .refused .tpsOutOfRange := by
  rw [exec_eq_operate, operate_illegal _ h]

/-- Settles O50: a step and every command first check the configuration, and `TPS` outside 1..511 fails that check. -/
theorem illegalTpsIsRefused : Obligations.IllegalTpsIsRefused := by
  unfold Obligations.IllegalTpsIsRefused
  intro s htps
  have hillegal : s.cfg.legal = false := s.cfg.legal_eq_false_iff.mpr htps
  exact ⟨step_illegal hillegal, fun i => exec_illegal i hillegal⟩

end Sys2Proof.Machine
end

section
/-! The whole state (10_state.md): what a TICK and every other command do to `UP` and to the strobes, and from that what a step can do
to them; and the block right after power-on reset. -/

namespace Sys2Proof.Machine

/-! ### The uptime counter in a TICK and in the other commands -/

/-- A TICK runs ADVANCE once; its later steps leave `UP` (44_dispatcher.md R240). -/
@[simp] theorem tickOperation_up (s : State) : (tickOperation s).up = (advance s.cfg.tps s.up).1 := by
  rw [tickOperation_eq, fanOutStep, runTask_up]
  split
  · rw [fermentationStep_up, clockStep_up]
  · rw [clockStep_up]

/-- TICK and CLK_RESET are the only commands that write `UP`, and TICK writes ADVANCE of it. -/
theorem exec_up_writers {i : Instr} {s t : State} (h : exec i s = .next t) (hne : t.up ≠ s.up) :
    (i = .tick ∧ t.up = (advance s.cfg.tps s.up).1) ∨ i = .clkReset := by
  obtain ⟨-, rfl⟩ := (exec_next_iff i s t).1 h
  by_cases hr : s.rstN = true
  · rw [if_pos hr] at hne ⊢
    cases i with
    | tick => exact .inl ⟨rfl, tickOperation_up s.quiet⟩
    | clkReset => exact .inr rfl
    | nop | ftStart | ftStop | rlyEnable | rlyDisable => exact absurd rfl hne
  · rw [if_neg hr] at hne
    exact absurd (quiet_up s) hne

/-! ### The strobes of a TICK and of the other commands -/

/-- The fermentation step fires `ev_ferm_complete` once, at expiry, or nothing (44_dispatcher.md R243, R244). -/
theorem fermentationStep_events (s : State) :
    (fermentationStep s).events = s.events ∨ (fermentationStep s).events = s.events ++ [.fermComplete] := by
  rw [fermentationStep_eq]
  split
  · exact .inr (expire_events _)
  · exact .inl rfl

/-- The fan-out fires one of its two strobes, or nothing (44_dispatcher.md R245). -/
theorem fanOutStep_events (s : State) :
    (fanOutStep s).events = s.events ∨ (fanOutStep s).events = s.events ++ [.uiRefresh] ∨
      (fanOutStep s).events = s.events ++ [.sensorStart] := by
  rcases fanOutStep_cases s with ⟨-, e⟩ | ⟨-, e⟩ | ⟨-, e⟩ | ⟨-, e⟩ <;> rw [e]
  · exact .inl rfl
  · exact .inr (.inl (emit_events _ s))
  · exact .inr (.inr (emit_events _ s))
  · exact .inl (relayInvoke_events s)

/-- A fan-out after at most one `ev_ferm_complete` leaves one of the lists a TICK can leave. -/
theorem fanOutStep_events_mem {s : State} (h : s.events = [] ∨ s.events = [.fermComplete]) :
    (fanOutStep s).events ∈ eventLists := by
  rcases h with h | h <;> rcases fanOutStep_events s with e | e | e <;> rw [e, h] <;> decide

/-- A TICK fires its strobes in its own order, each at most once (44_dispatcher.md R240). -/
theorem tickOperation_events_mem {s : State} (h : s.events = []) : (tickOperation s).events ∈ eventLists := by
  rw [tickOperation_eq]
  apply fanOutStep_events_mem
  split
  · rcases fermentationStep_events (clockStep s).1 with e | e
    · exact .inl (e.trans h)
    · exact .inr (by rw [e, clockStep_events, h, List.nil_append])
  · exact .inl h

/-- Without a strobe the event list is an allowed one, and nothing follows from a strobe having fired. -/
theorem events_mem_of_eq_nil {t : State} {P : Prop} (h : t.events = []) : t.events ∈ eventLists ∧ (t.events ≠ [] → P) :=
  ⟨by rw [h]; exact List.mem_cons_self, fun hne => absurd h hne⟩

/-- TICK is the only command that fires a strobe. -/
theorem exec_events {i : Instr} {s t : State} (h : exec i s = .next t) :
    t.events ∈ eventLists ∧ (t.events ≠ [] → i = .tick) := by
  obtain ⟨-, rfl⟩ := (exec_next_iff i s t).1 h
  by_cases hr : s.rstN = true
  · rw [if_pos hr]
    cases i with
    | tick => exact ⟨tickOperation_events_mem (quiet_events s), fun _ => rfl⟩
    | nop | clkReset | ftStart | ftStop | rlyEnable | rlyDisable => exact events_mem_of_eq_nil rfl
  · rw [if_neg hr]
    exact events_mem_of_eq_nil (quiet_events s)

/-! ### The reset pin and the first TICK -/

/-- No strobe is active after a level of `rst_n` (70_reset_and_hazards.md R300). -/
@[simp] theorem setResetPin_events (level : Bool) (s : State) : (setResetPin level s).events = [] := by
  unfold setResetPin
  split <;> rfl

/-- The first ADVANCE after reset does not carry when `TPS` is above 1 (40_clock.md R120). -/
theorem advance_zero {tps : Nat} (h : 2 ≤ tps) : (advance tps 0).1 = 1 := by
  have hticks : upTicks 0 = 0 := by decide
  rw [advance_of_lt (by omega), hticks]
  decide

/-! ### The statements -/

/-- Settles O55, by what a step can have done: a command names its writer by `exec_up_writers`, `rst_n` is the third writer, and nothing
else writes `UP`. -/
theorem uptimeHasThreeWriters : Obligations.UptimeHasThreeWriters := by
  unfold Obligations.UptimeHasThreeWriters
  intro s t h hne
  obtain ⟨-, ⟨-, rfl⟩ | ⟨a, rest, hin, ⟨i, inbox', he⟩ | ⟨v, rfl⟩ | ⟨p, -, rfl⟩ | ⟨level, rfl, -⟩⟩⟩ := step_next_cases h
  · exact absurd (quiet_up s) hne
  · obtain ⟨rfl, hup⟩ | rfl := exec_up_writers he hne
    · exact .inl ⟨inbox', he, hup⟩
    · exact .inr (.inl ⟨inbox', he⟩)
  · exact absurd rfl hne
  · exact absurd rfl hne
  · exact .inr (.inr ⟨level, rest, hin⟩)

/-- Settles O57, by what a step can have done: only a command can fire a strobe, and that command is TICK by `exec_events`. -/
theorem strobesFireOnlyInsideTick : Obligations.StrobesFireOnlyInsideTick := by
  unfold Obligations.StrobesFireOnlyInsideTick
  refine ⟨fun _ => rfl, fun s t h => ?_⟩
  obtain ⟨-, ⟨-, rfl⟩ | ⟨a, rest, -, ⟨i, inbox', he⟩ | ⟨v, rfl⟩ | ⟨p, -, rfl⟩ | ⟨level, -, rfl⟩⟩⟩ := step_next_cases h
  · exact events_mem_of_eq_nil (quiet_events s)
  · obtain ⟨hmem, htick⟩ := exec_events he
    refine ⟨hmem, fun hne => ?_⟩
    obtain rfl := htick hne
    exact ⟨inbox', he⟩
  · exact events_mem_of_eq_nil rfl
  · exact events_mem_of_eq_nil rfl
  · exact events_mem_of_eq_nil (setResetPin_events level _)

/-- Nothing has arrived right after power-on, so the block waits (70_reset_and_hazards.md R301). -/
theorem step_powerOn {c : Params} (p : Ports) (hl : c.legal = true) :
    step (State.powerOn c p) = .next (State.powerOn c p) :=
  step_legal hl

/-- A TICK right after power-on is performed: the configuration is legal and `rst_n` is high. -/
theorem exec_tick_powerOn {c : Params} (p : Ports) (hl : c.legal = true) :
    exec .tick (State.powerOn c p) = .next (tickOperation (State.powerOn c p)) := by
  rw [exec_eq_operate]
  exact operate_accepting tickOperation ⟨hl, rfl⟩

/-- Settles O49: the registers and the strobes by the definition of power-on, the wait by `step_powerOn`, and the first TICK by ADVANCE
of 0. -/
theorem powerOnRegistersAreZero : Obligations.PowerOnRegistersAreZero := by
  unfold Obligations.PowerOnRegistersAreZero
  intro c p
  refine ⟨rfl, rfl, rfl, rfl, rfl, rfl, rfl, rfl, rfl, rfl, step_powerOn p, fun hl htps => ?_⟩
  exact ⟨_, exec_tick_powerOn p hl, (tickOperation_up _).trans (advance_zero htps)⟩

end Sys2Proof.Machine
end

section
/-! The register window (20_memory.md): every aligned window address is that of a register, what a step serves at a register, and the
register map with its fields cut out by shift and mask. -/

namespace Sys2Proof

/-! ### Fields and byte lanes by shift and mask -/

/-- A field is the register shifted down to it under the mask of its width. -/
theorem field_eq_shift_mask {n : Nat} (v : BitVec n) (lo : Nat) {w : Nat} (h : w ≤ n) :
    field v lo w = ((v >>> lo) &&& BitVec.ofNat n (2 ^ w - 1)).toNat := by
  have hmask : 2 ^ w - 1 < 2 ^ n :=
    Nat.lt_of_lt_of_le (Nat.sub_lt (Nat.two_pow_pos w) Nat.one_pos) (Nat.pow_le_pow_right (by decide) h)
  rw [BitVec.toNat_and, BitVec.toNat_ushiftRight, BitVec.toNat_ofNat, Nat.mod_eq_of_lt hmask, Nat.and_two_pow_sub_one_eq_mod,
    Nat.shiftRight_eq_div_pow, field]

/-- The topmost field of a register needs no mask. -/
theorem field_top_eq_shift {n : Nat} (v : BitVec n) {lo w : Nat} (h : lo + w = n) : field v lo w = (v >>> lo).toNat := by
  have hv : v.toNat / 2 ^ lo < 2 ^ w := by
    rw [Nat.div_lt_iff_lt_mul (Nat.two_pow_pos lo), ← Nat.pow_add, Nat.add_comm w, h]
    exact v.isLt
  rw [BitVec.toNat_ushiftRight, Nat.shiftRight_eq_div_pow, field, Nat.mod_eq_of_lt hv]

/-- A byte lane is the word shifted down to it and truncated (20_memory.md R68). -/
theorem laneByte_eq_shift (v : Word) (k : Nat) : laneByte v k = (v >>> (8 * k)).setWidth 8 := by
  apply BitVec.eq_of_toNat_eq
  rw [toNat_laneByte, BitVec.toNat_setWidth, BitVec.toNat_ushiftRight, Nat.shiftRight_eq_div_pow]

end Sys2Proof

namespace Sys2Proof.Machine

/-! ### The window's addresses -/

/-- An offset below 64 is in the window. -/
theorem windowOffset_base_add (c : Params) {off : Nat} (h : off < 64) : windowOffset c (c.base + off) = some off :=
  (windowOffset_eq_some c _ off).2 ⟨rfl, h⟩

/-- Only the word an offset lies in says which register is there. -/
theorem regAt_congr {a b : Nat} (h : a / 4 = b / 4) : regAt a = regAt b := by
  unfold regAt
  rw [h]

/-- All four byte offsets of a register are its own. -/
theorem regAt_offsetOf_add (r : RegName) {k : Nat} (hk : k < 4) : regAt (offsetOf r + k) = r := by
  have haligned := offsetOf_aligned r
  exact (regAt_congr (by omega)).trans (regAt_offsetOf r)

/-- An aligned offset in the window is the offset of the register there. -/
theorem offsetOf_regAt {off : Nat} (hlt : off < 64) (haligned : off % 4 = 0) : offsetOf (regAt off) = off := by
  have hwords : ∀ q < 16, offsetOf (regAt (4 * q)) = 4 * q := by decide
  obtain ⟨q, rfl⟩ := Nat.dvd_of_mod_eq_zero haligned
  exact hwords q (by omega)

/-- An aligned address in the window is the address of a register (20_memory.md R60, R61). -/
theorem exists_register_of_aligned {base addr : Nat} (hlo : base ≤ addr) (hhi : addr < base + 64)
    (haligned : (addr - base) % 4 = 0) : ∃ r, addr = base + offsetOf r :=
  ⟨regAt (addr - base), by rw [offsetOf_regAt (by omega) haligned]; omega⟩

theorem offsetOf_eq_cmd_iff (r : RegName) : offsetOf r = 0x18 ↔ r = .cmd := by
  cases r <;> decide

/-! ### What a register reads -/

theorem readRegister_of_rstN (r : RegName) {s : State} (h : s.rstN = true) : readRegister r s = registerValue r s :=
  if_pos h

/-- A read answers from the registers, the parameters and `rst_n`: neither what is to arrive nor what the last step put out matters. -/
theorem readRegister_congr_record (r : RegName) (s : State) (inbox : List Arrival) (events : List Event) (answer : Option Word) :
    readRegister r { s with inbox := inbox, events := events, readData := answer } = readRegister r s := by
  cases r <;> rfl

/-- `CMD` reads 0 at either level of `rst_n` (20_memory.md R63). -/
theorem readRegister_cmd (s : State) : readRegister .cmd s = 0 :=
  ite_self 0

/-! ### What a step serves at a register -/

/-- A word read of a register answers its value and, the arrival apart, changes nothing (20_memory.md R64). -/
theorem step_read_register (r : RegName) {s : State} {rest : List Arrival} (hl : s.cfg.legal = true)
    (hin : s.inbox = .access (.read (s.cfg.base + offsetOf r) .word) :: rest) :
    step s = .next { s with inbox := rest, events := [], readData := some (readRegister r s) } := by
  rw [step_legal hl, serveNext, hin]
  refine (admit_register r { s with inbox := rest } _).trans ?_
  rw [regAt_offsetOf]
  exact congrArg (fun v => Host.Outcome.next { s with inbox := rest, events := [], readData := some v })
    (readRegister_congr_record r s rest s.events s.readData)

/-- A word write performs its word at `CMD` and is ignored at every other register (20_memory.md R63, R65). -/
theorem step_write_register (r : RegName) (w : Word) {s : State} {rest : List Arrival} (hl : s.cfg.legal = true)
    (hin : s.inbox = .access (.write (s.cfg.base + offsetOf r) .word w) :: rest) :
    step s =
      if r = .cmd then perform w { s with inbox := rest }
      else .next { s with inbox := rest, events := [], readData := none } := by
  rw [step_legal hl, serveNext, hin]
  refine (admit_register r { s with inbox := rest } _).trans ?_
  rw [regAt_offsetOf]
  rfl

/-! ### The register map -/

/-- A count within 16 bits is shown as it is. -/
theorem countWord_of_lt {n : Nat} (h : n < 65536) : countWord n = BitVec.ofNat 32 n := by
  exact congrArg (BitVec.ofNat 32) (Nat.mod_eq_of_lt h)

/-- `FT_ACTIVE` as a number (10_state.md R28). -/
theorem toNat_ftActive (ft : TimerWord) : (ftActive ft).toNat = if ft = 0 then 0 else 1 := by
  by_cases h : ft = 0
  · rw [if_pos h, h]
    rfl
  · rw [if_neg h, ftActive, decide_eq_true h]
    rfl

/-- The sixteen registers in the order of their offsets (20_memory.md R61). -/
def registerNames : List RegName :=
  [.uptime, .ftimer, .ftphase, .status, .hold, .pulse, .cmd, .reserved1C, .upTicks, .upSeconds, .upMinutes, .upHours, .upDays,
    .ftHours, .ftMinutes, .reserved3C]

/-- The value column of the register map, its fields by shift and mask and its counts whole (20_memory.md R61, R62). -/
def mapValue (s : State) : RegName → Word
  | .uptime => s.up
  | .ftimer => s.ft.setWidth 32
  | .ftphase => s.phase.setWidth 32
  | .status => BitVec.ofNat 32 (s.enabled.toNat + 2 * s.active.toNat + 4 * s.out.toNat +
      8 * (if s.ft = 0 then 0 else 1) + 16 * s.cfg.buzzer.toNat)
  | .hold => BitVec.ofNat 32 s.hold
  | .pulse => if s.cfg.buzzer = true then BitVec.ofNat 32 s.pulse else 0
  | .cmd => 0
  | .reserved1C => 0
  | .upTicks => s.up &&& 0x1FF
  | .upSeconds => (s.up >>> 9) &&& 0x3F
  | .upMinutes => (s.up >>> 15) &&& 0x3F
  | .upHours => (s.up >>> 21) &&& 0x1F
  | .upDays => s.up >>> 26
  | .ftHours => (s.ft >>> 6).setWidth 32
  | .ftMinutes => (s.ft &&& 0x3F).setWidth 32
  | .reserved3C => 0

/-- A field of `UP` on the bus. -/
theorem ofNat_field_word (v : Word) (lo : Nat) {w : Nat} (h : w ≤ 32) :
    BitVec.ofNat 32 (field v lo w) = (v >>> lo) &&& BitVec.ofNat 32 (2 ^ w - 1) := by
  rw [field_eq_shift_mask v lo h, BitVec.ofNat_toNat, BitVec.setWidth_eq]

/-- The map's value is the register's content as long as the counts fit in 16 bits. -/
theorem registerValue_eq_mapValue (r : RegName) {s : State} (hhold : s.hold < 65536) (hpulse : s.pulse < 65536) :
    registerValue r s = mapValue s r := by
  cases r with
  | uptime | ftimer | ftphase | cmd | reserved1C | reserved3C => rfl
  | status => rw [registerValue, statusWord, toNat_ftActive]; rfl
  | hold => exact countWord_of_lt hhold
  | pulse => rw [registerValue, countWord_of_lt hpulse]; rfl
  | upTicks => exact (ofNat_field_word s.up 0 (by decide)).trans (by rw [BitVec.ushiftRight_zero]; rfl)
  | upSeconds => exact ofNat_field_word s.up 9 (by decide)
  | upMinutes => exact ofNat_field_word s.up 15 (by decide)
  | upHours => exact ofNat_field_word s.up 21 (by decide)
  | upDays => rw [registerValue, upDays, field_top_eq_shift s.up rfl, BitVec.ofNat_toNat, BitVec.setWidth_eq]; rfl
  | ftHours => rw [registerValue, ftHours, field_top_eq_shift s.ft rfl, BitVec.ofNat_toNat]; rfl
  | ftMinutes =>
    rw [registerValue, ftMinutes, field_eq_shift_mask s.ft 0 (by decide), BitVec.ushiftRight_zero, BitVec.ofNat_toNat]; rfl

/-! ### The statements -/

/-- Settles O32: both steps read the same register, whose value does not depend on what the first step left behind. -/
theorem readsHaveNoSideEffects : Obligations.ReadsHaveNoSideEffects := by
  unfold Obligations.ReadsHaveNoSideEffects
  intro s addr rest hl hlo hhi haligned hin
  obtain ⟨r, rfl⟩ := exists_register_of_aligned hlo hhi haligned
  have hfirst := step_read_register r hl hin
  have hsecond := step_read_register r (rest := rest)
    (s := { s with
      inbox := .access (.read (s.cfg.base + offsetOf r) .word) :: rest, events := [], readData := some (readRegister r s) }) hl rfl
  rw [readRegister_congr_record] at hsecond
  exact ⟨readRegister r s, run_succ_of_next hfirst, (run_succ_of_next hfirst).trans (run_succ_of_next hsecond)⟩

/-- Settles O33: the address is that of a register other than `CMD`. -/
theorem writesOutsideCmdAreIgnored : Obligations.WritesOutsideCmdAreIgnored := by
  unfold Obligations.WritesOutsideCmdAreIgnored
  intro s addr data rest hl hlo hhi haligned hne hin
  obtain ⟨r, rfl⟩ := exists_register_of_aligned hlo hhi haligned
  have hr : r ≠ .cmd := fun h => hne (by rw [(offsetOf_eq_cmd_iff r).2 h])
  rw [step_write_register r data hl hin, if_neg hr]

/-- Settles O34, at the register `CMD`. -/
theorem cmdIsWriteOnly : Obligations.CmdIsWriteOnly := by
  unfold Obligations.CmdIsWriteOnly
  intro s w rest hl
  refine ⟨fun hin => ?_, fun hin => ?_⟩
  · rw [step_write_register .cmd w hl hin, if_pos rfl]
  · rw [step_read_register .cmd hl hin, readRegister_cmd]

/-- Settles O35: a row of the map is a register with its `mapValue`, and an aligned offset is that of a register. -/
theorem registerMapAccesses : Obligations.RegisterMapAccesses := by
  unfold Obligations.RegisterMapAccesses
  rintro s rest ⟨hl, hrst⟩ hhold hpulse
  refine ⟨fun off v hrow => ?_, fun off w hlt haligned => ?_⟩
  · have hmap : (off, v) ∈ registerNames.map fun r => (offsetOf r, mapValue s r) := hrow
    obtain ⟨r, -, hr⟩ := List.mem_map.1 hmap
    obtain ⟨rfl, rfl⟩ := Prod.mk.inj hr
    have hread := step_read_register r (rest := rest)
      (s := { s with inbox := .access (.read (s.cfg.base + offsetOf r) .word) :: rest }) hl rfl
    rwa [readRegister_congr_record, readRegister_of_rstN r hrst, registerValue_eq_mapValue r hhold hpulse] at hread
  · obtain ⟨r, rfl⟩ : ∃ r, off = offsetOf r := ⟨regAt off, (offsetOf_regAt hlt haligned).symm⟩
    have hwrite := step_write_register r w (rest := rest)
      (s := { s with inbox := .access (.write (s.cfg.base + offsetOf r) .word w) :: rest }) hl rfl
    simpa only [offsetOf_eq_cmd_iff] using hwrite

/-- Settles O37: the address lies in the word of `r`, at lane `k`. -/
theorem byteLanesAreLittleEndian : Obligations.ByteLanesAreLittleEndian := by
  unfold Obligations.ByteLanesAreLittleEndian
  intro s r k hk
  have haligned := offsetOf_aligned r
  have hlt := offsetOf_lt r
  have hlane : (offsetOf r + k) % 4 = k := by omega
  rw [readByte, Nat.add_assoc, windowOffset_base_add s.cfg (by omega), Option.map_some, regAt_offsetOf_add r hk, hlane,
    laneByte_eq_shift]

end Sys2Proof.Machine
end

section
/-! The command encoding (30_encoding.md): which words decode alike, the host's write of a command to `CMD` as a step, what a TICK adds to the
uptime, and the pseudo-instructions. -/

namespace Sys2Proof

/-! ### The decoder -/

/-- An opcode of 7 or above is reserved (30_encoding.md R98). -/
theorem decode_of_reserved {w : Word} (h : 7 ≤ opcodeOf w) : decode w = .noOperation (opcodeOf w) := by
  unfold decode
  split
  case h_8 => rfl
  all_goals omega

/-- The decoder reads the opcode and, for FT_START alone, `IMM16` (30_encoding.md R99). -/
theorem decode_congr {w w' : Word} (hopc : opcodeOf w = opcodeOf w') (himm : opcodeOf w = 3 → imm16Of w = imm16Of w') :
    decode w = decode w' := by
  unfold decode
  rw [← hopc]
  split
  case h_4 h => rw [himm h]
  all_goals rfl

/-- The decoder reads a well-formed command back from its canonical word. -/
theorem decode_encode {i : Instr} (h : i.wellFormed = true) : decode (encode i) = .op i := by
  cases i with
  | nop | tick | clkReset | ftStop | rlyEnable | rlyDisable => rfl
  | ftStart d =>
    obtain ⟨hopc, -, himm⟩ := Laws.EncodedFields.ftStart d h
    have hopc : opcodeOf (encode (.ftStart d)) = 3 := hopc
    have himm : imm16Of (encode (.ftStart d)) = d := himm
    unfold decode
    rw [hopc, himm]
    rfl

end Sys2Proof

namespace Sys2Proof.Machine

/-! ### A command as a step -/

/-- A write of a word to `CMD` is performed on the state without that arrival (20_memory.md R63). -/
theorem step_commandWrite (w : Word) {s : State} (rest : List Arrival) (hl : s.cfg.legal = true) :
    step { s with inbox := commandWrite s.cfg w :: rest } = perform w { s with inbox := rest } := by
  have hlegal : { s with inbox := commandWrite s.cfg w :: rest }.cfg.legal = true := hl
  exact (step_legal hlegal).trans (serve_commandWrite w { s with inbox := rest })

/-- The host's write of a well-formed command runs that command. -/
theorem step_commandArrival {i : Instr} (hi : i.wellFormed = true) {s : State} (rest : List Arrival)
    (hl : s.cfg.legal = true) :
    step { s with inbox := commandArrival s.cfg i :: rest } = exec i { s with inbox := rest } := by
  rw [commandArrival, step_commandWrite _ rest hl, perform, decode_encode hi]

/-- A pulse of `tick_in` runs TICK (10_state.md R38). -/
theorem step_tickIn {s : State} (rest : List Arrival) (hl : s.cfg.legal = true) :
    step { s with inbox := .tickIn :: rest } = exec .tick { s with inbox := rest } :=
  step_legal hl

/-- The TICK command and a pulse of `tick_in` are one step (30_encoding.md R97). -/
theorem step_tickCommand {s : State} (rest : List Arrival) (hl : s.cfg.legal = true) :
    step { s with inbox := commandArrival s.cfg .tick :: rest } = step { s with inbox := .tickIn :: rest } :=
  (step_commandArrival rfl rest hl).trans (step_tickIn rest hl).symm

/-- Under a legal configuration every command answers a next state, which keeps the configuration and what is still to arrive. -/
theorem exec_completes (i : Instr) {s : State} (hl : s.cfg.legal = true) :
    ∃ t, exec i s = .next t ∧ t.cfg = s.cfg ∧ t.inbox = s.inbox := by
  refine ⟨_, (exec_next_iff i s _).2 ⟨hl, rfl⟩, ?_, ?_⟩ <;> split <;> simp

/-! ### What a TICK adds to the uptime -/

/-- The whole seconds of an uptime: its fields above the ticks in mixed radix (40_clock.md R130). -/
def wholeSeconds (up : Word) : Nat := ((upDays up * 24 + upHours up) * 60 + upMinutes up) * 60 + upSeconds up

theorem uptimeTicks_eq (tps : Nat) (up : Word) : uptimeTicks tps up = wholeSeconds up * tps + upTicks up := rfl

theorem wholeSeconds_packUptime {t s m h d : Nat} (ht : t < 512) (hs : s < 64) (hm : m < 64) (hh : h < 32) (hd : d < 64) :
    wholeSeconds (packUptime t s m h d) = ((d * 24 + h) * 60 + m) * 60 + s := by
  obtain ⟨-, es, em, eh, ed⟩ := fields_packUptime ht hs hm hh hd
  rw [wholeSeconds, es, em, eh, ed]

/-- Fields in range are below 64 days of seconds. -/
theorem wholeSeconds_lt {tps : Nat} {up : Word} (h : UptimeInRange tps up) : wholeSeconds up < 64 * 86400 := by
  obtain ⟨-, hs, hm, hh⟩ := h
  have hd := upDays_lt up
  unfold wholeSeconds
  omega

/-- Writing the ticks leaves the fields above them. -/
theorem setTicks_eq_packUptime (up : Word) (x : Nat) :
    setField up 0 9 x = packUptime (x % 512) (upSeconds up) (upMinutes up) (upHours up) (upDays up) := by
  have e := setTicks_packUptime x (upTicks_lt up) (upSeconds_lt up) (upMinutes_lt up) (upHours_lt up) (upDays_lt up)
  rwa [packUptime_fields] at e

/-- A TICK that does not carry adds one to the ticks and keeps the seconds (40_clock.md R120). -/
theorem advance_of_lt_fields {tps : Nat} {up : Word} (htps : tps ≤ 511) (h : upTicks up + 1 < tps) :
    wholeSeconds (advance tps up).1 = wholeSeconds up ∧ upTicks (advance tps up).1 = upTicks up + 1 := by
  have hticks : (upTicks up + 1) % 512 = upTicks up + 1 := Nat.mod_eq_of_lt (by omega)
  have hlt : upTicks up + 1 < 512 := by omega
  rw [advance_of_lt h, setTicks_eq_packUptime, hticks]
  exact ⟨wholeSeconds_packUptime hlt (upSeconds_lt up) (upMinutes_lt up) (upHours_lt up) (upDays_lt up),
    (fields_packUptime hlt (upSeconds_lt up) (upMinutes_lt up) (upHours_lt up) (upDays_lt up)).1⟩

/-- The carry into seconds counts one second modulo 64 days and leaves cleared ticks (40_clock.md R122 to R125). -/
theorem carrySeconds_fields {s m h d : Nat} (hs : s < 60) (hm : m < 60) (hh : h < 24) (hd : d < 64) :
    wholeSeconds (carrySeconds (packUptime 0 s m h d)) = (((d * 24 + h) * 60 + m) * 60 + s + 1) % (64 * 86400) ∧
      upTicks (carrySeconds (packUptime 0 s m h d)) = 0 := by
  have ht : 0 < 512 := by decide
  rw [carrySeconds_packUptime ht hs (by omega) (by omega) hd]
  split
  case isFalse hs59 =>
    rw [wholeSeconds_packUptime ht (by omega) (by omega) (by omega) hd]
    exact ⟨by omega, (fields_packUptime ht (by omega) (by omega) (by omega) hd).1⟩
  rw [carryMinutes_packUptime ht (by decide) hm (by omega) hd]
  split
  case isFalse hm59 =>
    rw [wholeSeconds_packUptime ht (by decide) (by omega) (by omega) hd]
    exact ⟨by omega, (fields_packUptime ht (by decide) (by omega) (by omega) hd).1⟩
  rw [carryHours_packUptime ht (by decide) (by decide) hh hd]
  split
  case isFalse hh23 =>
    rw [wholeSeconds_packUptime ht (by decide) (by decide) (by omega) hd]
    exact ⟨by omega, (fields_packUptime ht (by decide) (by decide) (by omega) hd).1⟩
  have hwrap : (d + 1) % 64 < 64 := Nat.mod_lt _ (by decide)
  rw [wholeSeconds_packUptime ht (by decide) (by decide) (by decide) hwrap]
  exact ⟨by omega, (fields_packUptime ht (by decide) (by decide) (by decide) hwrap).1⟩

/-- A TICK that carries counts one second and clears the ticks (40_clock.md R120, R121). -/
theorem advance_of_le_fields {tps : Nat} {up : Word} (h : tps ≤ upTicks up + 1) (hr : UptimeInRange tps up) :
    wholeSeconds (advance tps up).1 = (wholeSeconds up + 1) % (64 * 86400) ∧ upTicks (advance tps up).1 = 0 := by
  obtain ⟨-, hs, hm, hh⟩ := hr
  rw [advance_of_le h, setTicks_eq_packUptime]
  exact carrySeconds_fields hs hm hh (upDays_lt up)

/-- ADVANCE counts one tick modulo the period of the counter (40_clock.md R130). -/
theorem uptimeTicks_advance {tps : Nat} {up : Word} (htps : tps ≤ 511) (hr : UptimeInRange tps up) :
    uptimeTicks tps (advance tps up).1 = (uptimeTicks tps up + 1) % uptimePeriod tps := by
  have hticks : upTicks up < tps := hr.1
  rw [uptimeTicks_eq, uptimeTicks_eq, uptimePeriod]
  by_cases hcarry : tps ≤ upTicks up + 1
  · obtain ⟨hsec, htick⟩ := advance_of_le_fields hcarry hr
    have hfull : wholeSeconds up * tps + upTicks up + 1 = (wholeSeconds up + 1) * tps := by
      rw [Nat.add_mul]
      omega
    rw [hsec, htick, hfull, Nat.mul_mod_mul_right, Nat.add_zero]
  · obtain ⟨hsec, htick⟩ := advance_of_lt_fields htps (Nat.not_le.1 hcarry)
    have hbound : (wholeSeconds up + 1) * tps ≤ 64 * 86400 * tps := Nat.mul_le_mul_right tps (wholeSeconds_lt hr)
    rw [Nat.add_mul] at hbound
    rw [hsec, htick, Nat.mod_eq_of_lt (by omega), Nat.add_assoc]

/-! ### Commands do not look at what is still to arrive -/

theorem hysteresis_withInbox (s : State) (inbox : List Arrival) :
    hysteresis { s with inbox := inbox } = { hysteresis s with inbox := inbox } := by
  unfold hysteresis
  dsimp only
  split_ifs <;> rfl

theorem relayInvoke_withInbox (s : State) (inbox : List Arrival) :
    relayInvoke { s with inbox := inbox } = { relayInvoke s with inbox := inbox } := by
  have hclear : clearPulse { s with inbox := inbox } = { clearPulse s with inbox := inbox } := by
    unfold clearPulse
    split <;> rfl
  have hidle : idleController { s with inbox := inbox } = { idleController s with inbox := inbox } := by
    unfold idleController
    split <;> rfl
  unfold relayInvoke
  rw [hclear, hidle, hysteresis_withInbox]
  split <;> rfl

theorem fanOutStep_withInbox (s : State) (inbox : List Arrival) :
    fanOutStep { s with inbox := inbox } = { fanOutStep s with inbox := inbox } := by
  have htask : selectedTask { s with inbox := inbox } = selectedTask s := rfl
  unfold fanOutStep
  rw [htask]
  cases selectedTask s with
  | none | ui | sensor => rfl
  | relay => exact relayInvoke_withInbox s inbox

theorem fermentationStep_withInbox (s : State) (inbox : List Arrival) :
    fermentationStep { s with inbox := inbox } = { fermentationStep s with inbox := inbox } := by
  rw [fermentationStep_eq, fermentationStep_eq]
  split <;> rfl

theorem tickOperation_withInbox (s : State) (inbox : List Arrival) :
    tickOperation { s with inbox := inbox } = { tickOperation s with inbox := inbox } := by
  rw [tickOperation_eq, tickOperation_eq, ← fanOutStep_withInbox]
  congr 1
  split
  · exact fermentationStep_withInbox (clockStep s).1 inbox
  · rfl

/-- A command does the same whatever is still to arrive, and leaves it to arrive. -/
theorem exec_withInbox (i : Instr) {s t : State} (inbox : List Arrival) (h : exec i s = .next t) :
    exec i { s with inbox := inbox } = .next { t with inbox := inbox } := by
  have heffect (u : State) : effectOf i { u with inbox := inbox } = { effectOf i u with inbox := inbox } := by
    cases i with
    | tick => exact tickOperation_withInbox u inbox
    | nop | clkReset | ftStart | ftStop | rlyEnable | rlyDisable => rfl
  obtain ⟨hl, rfl⟩ := (exec_next_iff i s t).1 h
  refine (exec_next_iff i _ _).2 ⟨hl, ?_⟩
  dsimp only
  split
  · exact (heffect s.quiet).symm
  · rfl

/-! ### Runs of commands -/

/-- As many TICK commands as pulses of `tick_in` end in the same outcome: the first two are one step, and the induction takes over in the
state it answers. -/
theorem run_tickCommands (n : Nat) {s : State} (hl : s.cfg.legal = true) :
    run n { s with inbox := List.replicate n (commandArrival s.cfg .tick) ++ s.inbox } = runTicks n s := by
  induction n generalizing s with
  | zero => rfl
  | succ n ih =>
    obtain ⟨t, hexec, hcfg, hinbox⟩ := exec_completes .tick hl
    have hcommand := (step_commandArrival (i := .tick) rfl
      (List.replicate n (commandArrival s.cfg .tick) ++ s.inbox) hl).trans (exec_withInbox .tick _ hexec)
    have hpulse := (step_tickIn (List.replicate n .tickIn ++ s.inbox) hl).trans (exec_withInbox .tick _ hexec)
    have hrest := ih (s := t) (by rw [hcfg]; exact hl)
    have hwrite : commandArrival t.cfg .tick = commandArrival s.cfg .tick := by rw [hcfg]
    rw [hwrite, hinbox] at hrest
    calc
      _ = run n { t with inbox := List.replicate n (commandArrival s.cfg .tick) ++ s.inbox } := run_succ_of_next hcommand
      _ = runTicks n t := hrest
      _ = run n { t with inbox := List.replicate n .tickIn ++ s.inbox } := by rw [runTicks, withTicks, hinbox]
      _ = runTicks (n + 1) s := (run_succ_of_next hpulse).symm

/-- FT_START overwrites what FT_STOP cleared (30_encoding.md R102; 41_fermentation_timer.md R150, R153). -/
theorem run_ftStop_ftStart {s : State} {d : Nat} (rest : List Arrival) (hd : d ≤ 65535) (hs : Accepting s) :
    run 2 { s with inbox := commandArrival s.cfg .ftStop :: commandArrival s.cfg (.ftStart d) :: rest } =
      run 1 { s with inbox := commandArrival s.cfg (.ftStart d) :: rest } := by
  have hwf : (Instr.ftStart d).wellFormed = true := decide_eq_true hd
  have hstop :
      step { s with inbox := commandArrival s.cfg .ftStop :: commandArrival s.cfg (.ftStart d) :: rest } =
        .next { s.quiet with ft := 0, inbox := commandArrival s.cfg (.ftStart d) :: rest } :=
    (step_commandArrival rfl _ hs.1).trans (operate_accepting stopTimer hs)
  have hrestart :
      step { s.quiet with ft := 0, inbox := commandArrival s.cfg (.ftStart d) :: rest } =
        .next (startTimer d { s.quiet with inbox := rest }) :=
    (step_commandArrival (s := { s.quiet with ft := 0 }) hwf rest hs.1).trans (operate_accepting (startTimer d) hs)
  have hstart :
      step { s with inbox := commandArrival s.cfg (.ftStart d) :: rest } =
        .next (startTimer d { s.quiet with inbox := rest }) :=
    (step_commandArrival hwf rest hs.1).trans (operate_accepting (startTimer d) hs)
  rw [run_succ_of_next hstop, run_succ_of_next hrestart, run_succ_of_next hstart]

/-- RLY_SET #1 is RLY_ENABLE, #0 is RLY_DISABLE, and any other operand is an assembly error (30_encoding.md R102). -/
theorem assembleLine_rlySet (c : Params) (b : Nat) :
    assembleLine c (.rlySet b) =
      if b = 1 then assembleLine c (.command .rlyEnable)
      else if b = 0 then assembleLine c (.command .rlyDisable) else none := by
  match b with
  | 0 | 1 => simp [assembleLine, asmWellFormed, expandLine, Instr.wellFormed]
  | b + 2 => simp [assembleLine, asmWellFormed]

/-! ### The statements -/

/-- Settles O41: a reserved word decodes to no operation, and words that differ in ignored bits only decode alike. -/
theorem reservedOpcodesAndIgnoredBits : Obligations.ReservedOpcodesAndIgnoredBits := by
  unfold Obligations.ReservedOpcodesAndIgnoredBits
  refine ⟨fun w s hopc hs => ?_, fun w w' s hopc himm => ?_⟩
  · rw [perform, decode_of_reserved hopc]
    exact operate_accepting noEffect hs
  · rw [perform, perform, decode_congr hopc himm]

/-- Settles O46: both arrivals run TICK, whose ADVANCE counts one tick. -/
theorem tickCommandIsTickPulse : Obligations.TickCommandIsTickPulse := by
  unfold Obligations.TickCommandIsTickPulse
  refine ⟨fun s rest hl => step_tickCommand rest hl, fun s rest hs hr => ?_⟩
  have hl : s.cfg.legal = true := hs.1
  have hrun : exec .tick { s with inbox := rest } = .next (tickOperation { s with inbox := rest }.quiet) :=
    operate_accepting tickOperation hs
  refine ⟨_, (step_tickIn rest hl).trans hrun, tickOperation_inbox _, ?_⟩
  rw [tickOperation_up]
  exact uptimeTicks_advance ((s.cfg.legal_iff).1 hl).2 hr

/-- Settles O59: the TICKN run by `run_tickCommands`, the operands of RLY_SET by `assembleLine_rlySet`, and the FT_RESTART run by
`run_ftStop_ftStart`. -/
theorem pseudoInstructionsExpand : Obligations.PseudoInstructionsExpand := by
  unfold Obligations.PseudoInstructionsExpand
  refine ⟨fun s n hl => ⟨?_, run_tickCommands n hl⟩, assembleLine_rlySet,
    fun s d hd hs => ⟨rfl, run_ftStop_ftStart s.inbox hd hs⟩⟩
  rw [expandLine, expandLine, List.flatten_replicate_singleton]

end Sys2Proof.Machine
end

section
/-! The uptime counter (40_clock.md): ADVANCE as raw adds on the packed word, the wrap at the end of day 63, and what CLK_RESET and the ticks
after it leave of the fermentation timer. -/

namespace Sys2Proof

/-- A field holds a value exactly when the word, shifted down to it under its mask, does. -/
theorem field_eq_iff_shift_mask {n : Nat} (v : BitVec n) (lo : Nat) {w x : Nat} (hw : w ≤ n) (hx : x < 2 ^ n) :
    field v lo w = x ↔ (v >>> lo) &&& BitVec.ofNat n (2 ^ w - 1) = BitVec.ofNat n x := by
  rw [field_eq_shift_mask v lo hw, ← BitVec.toNat_inj, BitVec.toNat_ofNat, Nat.mod_eq_of_lt hx]

end Sys2Proof

namespace Sys2Proof.Machine

/-! ### ADVANCE on every word -/

/-- The ticks field by its mask. -/
theorem upTicks_eq_mask (up : Word) : upTicks up = (up &&& 0x1FF#32).toNat := by
  rw [upTicks, field_eq_shift_mask up 0 (by decide), BitVec.ushiftRight_zero]
  rfl

/-- Clearing the ticks is a subtraction on the whole word. -/
theorem clearTicks_eq_sub (up : Word) : setField up 0 9 0 = up - (up &&& 0x1FF#32) := by
  have hup := up.isLt
  have hticks := upTicks_eq up
  rw [eq_comm, BitVec.sub_eq_iff_eq_add]
  apply BitVec.eq_of_toNat_eq
  rw [BitVec.toNat_add, ← upTicks_eq_mask, toNat_setField up 0 9 0 (by decide)]
  omega

/-- Ticks below the field's maximum count up by adding 1 to the whole word (40_clock.md R120). -/
theorem setTicks_succ {up : Word} (h : upTicks up + 1 < 512) : setField up 0 9 (upTicks up + 1) = up + 1#32 := by
  have hup := up.isLt
  have hticks := upTicks_eq up
  apply BitVec.eq_of_toNat_eq
  rw [BitVec.toNat_add, toNat_setField up 0 9 _ (by decide), BitVec.toNat_ofNat]
  omega

/-- The carry out of a seconds field of 60 goes on as one add of a minute (40_clock.md R122). -/
theorem carryMinutes_clearSeconds {u : Word} (h : upSeconds u = 60) :
    carryMinutes (setField u 9 6 0) =
      if upMinutes (u + 0x800#32) = 60 then carryHours (setField (u + 0x800#32) 15 6 0) else u + 0x800#32 := by
  rw [← clearSeconds_addMinute h]
  rfl

/-- The carry out of a minutes field of 60 goes on as one add of an hour and, at 24 hours, one add of a day (40_clock.md R123, R124). -/
theorem carryHours_clearMinutes {u : Word} (h : upMinutes u = 60) :
    carryHours (setField u 15 6 0) =
      if upHours (u + 0x20000#32) = 24 then u + 0x20000#32 + 0x1000000#32 else u + 0x20000#32 := by
  unfold carryHours
  dsimp only
  rw [clearMinutes_addHour h]
  split
  · next hday => exact clearHours_addDay hday
  · rfl

/-- A TICK that carries, by the last field its carry reaches: every add is on the whole word (40_clock.md R126). -/
theorem carrySeconds_eq_adds (u : Word) :
    carrySeconds u =
      if upSeconds (u + 0x200#32) ≠ 60 then u + 0x200#32
      else if upMinutes (u + 0x200#32 + 0x800#32) ≠ 60 then u + 0x200#32 + 0x800#32
      else if upHours (u + 0x200#32 + 0x800#32 + 0x20000#32) ≠ 24 then u + 0x200#32 + 0x800#32 + 0x20000#32
      else u + 0x200#32 + 0x800#32 + 0x20000#32 + 0x1000000#32 := by
  unfold carrySeconds
  dsimp only
  by_cases hs : upSeconds (u + 0x200#32) = 60
  case neg => rw [if_neg hs, if_pos hs]
  rw [if_pos hs, if_neg (not_not.2 hs), carryMinutes_clearSeconds hs]
  by_cases hm : upMinutes (u + 0x200#32 + 0x800#32) = 60
  case neg => rw [if_neg hm, if_pos hm]
  rw [if_pos hm, if_neg (not_not.2 hm), carryHours_clearMinutes hm, ite_not]

/-- Settles O10: below `TPS` by `setTicks_succ`; a TICK that carries by `carrySeconds_eq_adds`, its conditions on the fields read by shift
and mask; and R126's three encodings by evaluation. -/
theorem advanceIsRawPackedArithmetic : Obligations.AdvanceIsRawPackedArithmetic := by
  unfold Obligations.AdvanceIsRawPackedArithmetic
  refine ⟨fun tps up _ htps => ?_, by decide, by decide, by decide⟩
  have hseconds (u : Word) : upSeconds u = 60 ↔ (u >>> 9) &&& 0x3F#32 = 60#32 :=
    field_eq_iff_shift_mask u 9 (by decide) (by decide)
  have hminutes (u : Word) : upMinutes u = 60 ↔ (u >>> 15) &&& 0x3F#32 = 60#32 :=
    field_eq_iff_shift_mask u 15 (by decide) (by decide)
  have hhours (u : Word) : upHours u = 24 ↔ (u >>> 21) &&& 0x1F#32 = 24#32 :=
    field_eq_iff_shift_mask u 21 (by decide) (by decide)
  dsimp only
  rw [← upTicks_eq_mask]
  by_cases hcarry : upTicks up + 1 < tps
  · rw [if_pos hcarry, advance_of_lt hcarry, setTicks_succ (by omega)]
  · rw [if_neg hcarry, advance_of_le (Nat.not_lt.1 hcarry), carrySeconds_eq_adds, clearTicks_eq_sub]
    simp only [ne_eq, hseconds, hminutes, hhours]
    split_ifs <;> rfl

/-! ### The end of day 63 -/

/-- ADVANCE at day 63, 23:59:59 and the last tick: every field carries, and the carry out of the days is lost (40_clock.md R125). -/
theorem advance_lastTick {tps : Nat} {up : Word} (hd : upDays up = 63) (hh : upHours up = 23) (hm : upMinutes up = 59)
    (hs : upSeconds up = 59) (ht : upTicks up + 1 = tps) : advance tps up = (0, true) := by
  rw [advance_of_le ht.ge, setTicks_eq_packUptime, hs, hm, hh, hd,
    carrySeconds_packUptime (by decide) (by decide) (by decide) (by decide) (by decide), if_pos rfl,
    carryMinutes_packUptime (by decide) (by decide) (by decide) (by decide) (by decide), if_pos rfl,
    carryHours_packUptime (by decide) (by decide) (by decide) (by decide) (by decide), if_pos rfl]
  rfl

/-- The fermentation step of a stopped timer changes nothing (41_fermentation_timer.md R157). -/
theorem fermentationStep_of_stopped {s : State} (h : s.ft = 0) : fermentationStep s = s := by
  have htimer : ftTick s.ft s.phase (upSeconds s.up) = (s.ft, false) := ftTick_of_not fun hact => hact.1 h
  rw [fermentationStep_eq, htimer]
  rfl

/-- A fan-out that selects nothing changes nothing (44_dispatcher.md R245). -/
theorem fanOutStep_of_none {s : State} (h : selectedTask s = .none) : fanOutStep s = s := by
  rw [fanOutStep, h]
  rfl

/-- A TICK with the timer stopped and nothing selected advances `UP` and does nothing else. -/
theorem tickOperation_of_stopped_of_none {s : State} (hft : s.ft = 0) (htask : nextTask s = .none) :
    tickOperation s = { s with up := nextUp s } := by
  rw [tickOperation_eq, fermentationStep_of_stopped (s := (clockStep s).1) hft, ite_self]
  exact fanOutStep_of_none htask

/-- Settles O12: ADVANCE of the last tick by `advance_lastTick`; with the timer stopped and nothing selected that is the whole TICK. -/
theorem daysWrapSilently : Obligations.DaysWrapSilently := by
  unfold Obligations.DaysWrapSilently
  refine ⟨fun s hs hd hh hm hsec ht => ?_, advance_lastTick rfl rfl rfl rfl rfl⟩
  have hadvance := advance_lastTick hd hh hm hsec ht
  have hup : nextUp s = 0 := congrArg Prod.fst hadvance
  refine ⟨hup, congrArg Prod.snd hadvance, fun hft hfan => ?_⟩
  have htask : nextTask s = .none := by rw [nextTask, hup]; exact hfan
  rw [exec_eq_operate, effectOf, operate_accepting tickOperation hs, tickOperation_of_stopped_of_none (s := s.quiet) hft htask]
  exact congrArg (fun up => Host.Outcome.next { s with up := up, events := [], readData := none }) hup

/-! ### CLK_RESET, and the ticks that change `FT` -/

/-- FT_TICK changes `FT` only in the second that equals the phase (41_fermentation_timer.md R154). -/
theorem eq_phase_of_ftTick_ne {ft : TimerWord} {phase : PhaseWord} {sec : Nat} (h : (ftTick ft phase sec).1 ≠ ft) :
    sec = phase.toNat := by
  by_contra hsec
  exact h (by rw [ftTick_of_not fun hact => hsec hact.2])

@[simp] theorem fermentationStep_ft (s : State) :
    (fermentationStep s).ft = (ftTick s.ft s.phase (upSeconds s.up)).1 := by
  rw [fermentationStep_eq]
  split <;> rfl

/-- What a TICK leaves in `FT`: FT_TICK of the new seconds on a carry tick (44_dispatcher.md R243). -/
@[simp] theorem tickOperation_ft (s : State) :
    (tickOperation s).ft = if nextCarries s then (ftTick s.ft s.phase (upSeconds (nextUp s))).1 else s.ft := by
  rw [tickOperation_eq, fanOutStep, runTask_ft, apply_ite State.ft, fermentationStep_ft]
  rfl

/-- A TICK changes `FT` only if it carries into the second that equals `PHASE` (40_clock.md R128). -/
theorem tickOperation_ft_ne {s : State} (h : (tickOperation s).ft ≠ s.ft) :
    nextCarries s = true ∧ upSeconds (tickOperation s).up = s.phase.toNat := by
  rw [tickOperation_ft] at h
  split at h
  case isTrue hcarry => exact ⟨hcarry, by rw [tickOperation_up]; exact eq_phase_of_ftTick_ne h⟩
  case isFalse => exact absurd rfl h

/-- Settles O2: the effect of CLK_RESET through the sequencer's gate, and `tickOperation_ft_ne` for the TICKs after it. -/
theorem clkResetClearsUptimeOnly : Obligations.ClkResetClearsUptimeOnly := by
  unfold Obligations.ClkResetClearsUptimeOnly
  refine ⟨fun s hs => operate_accepting clearUptime hs, fun s t htick hne => ?_, by decide, by decide⟩
  obtain ⟨-, rfl⟩ := (exec_next_iff .tick s t).1 htick
  by_cases hr : s.rstN = true
  · rw [if_pos hr] at hne ⊢
    exact tickOperation_ft_ne (s := s.quiet) hne
  · rw [if_neg hr] at hne
    exact absurd (quiet_ft s) hne

end Sys2Proof.Machine
end

section
/-! The fermentation timer (41_fermentation_timer.md): what FT_START loads, one FT_TICK by its cases, and a TICK over a stopped timer. -/

namespace Sys2Proof

/-- The canonical word of FT_START is its opcode byte over its duration (30_encoding.md R90, R94). -/
theorem encode_ftStart_eq_or {d : Nat} (h : d ≤ 65535) : encode (.ftStart d) = 0x03000000 ||| BitVec.ofNat 32 d := by
  apply BitVec.eq_of_toNat_eq
  have hd : (BitVec.ofNat 32 d).toNat = d := by rw [BitVec.toNat_ofNat]; omega
  have hor : 0x03000000 ||| d = 2 ^ 24 * 3 + d := (Nat.two_pow_add_eq_or_of_lt (show d < 2 ^ 24 by omega) 3).symm
  rw [toNat_encode, BitVec.toNat_or, hd]
  refine Eq.trans ?_ hor.symm
  simp only [opcodeFor, operandFor]
  omega

end Sys2Proof

namespace Sys2Proof.Machine

/-! ### What FT_START loads -/

/-- The integer `d - 1` modulo 1024 is `d + 1023` modulo 1024 (41_fermentation_timer.md R151). -/
theorem startHours_eq (d : Nat) : startHours d = (d + 1023) % 1024 := by
  unfold startHours
  omega

theorem ftHours_startValue (d : Nat) : ftHours (startValue d) = (d + 1023) % 1024 := by
  rw [ftHours_eq, toNat_startValue, startHours_eq]
  omega

theorem ftMinutes_startValue (d : Nat) : ftMinutes (startValue d) = 59 := by
  rw [ftMinutes_eq, toNat_startValue]
  omega

/-- FT_START leaves the timer active: 59 minutes are not 0. -/
theorem startValue_ne_zero (d : Nat) : startValue d ≠ 0 := fun h => by
  have hminutes := ftMinutes_startValue d
  rw [h] at hminutes
  exact absurd hminutes (by decide)

theorem startValue_eq_ofNat (d : Nat) : startValue d = BitVec.ofNat 16 ((d + 1023) % 1024 * 64 + 59) := by
  apply BitVec.eq_of_toNat_eq
  rw [toNat_startValue, startHours_eq, BitVec.toNat_ofNat]
  omega

/-- The 59 minutes lie below the shifted hours, and the bits shifted out are those above 1024 hours (41_fermentation_timer.md R151). -/
theorem startValue_eq_shift_or (d : Nat) : startValue d = ((BitVec.ofNat 16 d - 1) <<< 6) ||| 59 := by
  apply BitVec.eq_of_toNat_eq
  have hone : (1 : TimerWord).toNat = 1 := rfl
  have hshift : ((BitVec.ofNat 16 d - 1) <<< 6).toNat = 2 ^ 6 * startHours d := by
    rw [startHours_eq, BitVec.toNat_shiftLeft, BitVec.toNat_sub, BitVec.toNat_ofNat, Nat.shiftLeft_eq, hone]
    omega
  rw [BitVec.toNat_or, hshift, toNat_startValue]
  exact Nat.two_pow_add_eq_or_of_lt (show 59 < 2 ^ 6 by decide) (startHours d)

/-- A performed FT_START is its effect. -/
theorem exec_ftStart_accepting (d : Nat) {s : State} (hs : Accepting s) :
    exec (.ftStart d) s = .next (startTimer d s.quiet) := by
  rw [exec_eq_operate]
  exact operate_accepting (startTimer d) hs

/-! ### One FT_TICK -/

/-- A timer with minutes left gives one of them and keeps its hours. -/
theorem decrementTimer_of_minutes {ft : TimerWord} (h : 0 < ftMinutes ft) :
    ftHours (decrementTimer ft) = ftHours ft ∧ ftMinutes (decrementTimer ft) = ftMinutes ft - 1 := by
  have hne : ft ≠ 0 := by
    rintro rfl
    exact absurd h (by decide)
  have hdec := toNat_decrementTimer hne
  rw [if_pos h] at hdec
  simp only [ftMinutes_eq, ftHours_eq] at h ⊢
  omega

/-- An active timer without minutes has an hour to give, which leaves 59 minutes. -/
theorem decrementTimer_of_borrow {ft : TimerWord} (hne : ft ≠ 0) (h : ftMinutes ft = 0) :
    0 < ftHours ft ∧ ftHours (decrementTimer ft) = ftHours ft - 1 ∧ ftMinutes (decrementTimer ft) = 59 := by
  have hpos : ft.toNat ≠ 0 := mt (timer_eq_zero_iff ft).2 hne
  have hdec := toNat_decrementTimer hne
  rw [if_neg h.not_gt] at hdec
  simp only [ftMinutes_eq, ftHours_eq] at h ⊢
  omega

/-- Only 0 h 1 m decrements to nothing: a borrow takes 5 from a value of at least 64. -/
theorem decrementTimer_eq_zero_iff {ft : TimerWord} (hne : ft ≠ 0) : decrementTimer ft = 0 ↔ ft = 1 := by
  have hpos : ft.toNat ≠ 0 := mt (timer_eq_zero_iff ft).2 hne
  have hone : ft = 1 ↔ ft.toNat = 1 := BitVec.toNat_inj.symm
  have hminutes := ftMinutes_eq ft
  rw [timer_eq_zero_iff, hone, toNat_decrementTimer hne]
  split <;> omega

/-- FT_TICK expires when it acts and leaves 0 (41_fermentation_timer.md R154). -/
theorem ftTick_expires_iff (ft : TimerWord) (phase : PhaseWord) (sec : Nat) :
    (ftTick ft phase sec).2 = true ↔ ft ≠ 0 ∧ sec = phase.toNat ∧ (ftTick ft phase sec).1 = 0 := by
  by_cases hact : ft ≠ 0 ∧ sec = phase.toNat
  · rw [ftTick_of hact, decide_eq_true_iff]
    exact ⟨fun hzero => ⟨hact.1, hact.2, hzero⟩, fun ⟨_, _, hzero⟩ => hzero⟩
  · rw [ftTick_of_not hact]
    exact ⟨nofun, fun ⟨hne, hsec, _⟩ => absurd ⟨hne, hsec⟩ hact⟩

/-- FT_TICK expires exactly from 0 h 1 m in the second of the phase. -/
theorem ftTick_expires_iff_one (ft : TimerWord) (phase : PhaseWord) (sec : Nat) :
    (ftTick ft phase sec).2 = true ↔ ft = 1 ∧ sec = phase.toNat := by
  by_cases hact : ft ≠ 0 ∧ sec = phase.toNat
  · rw [ftTick_of hact, decide_eq_true_iff, decrementTimer_eq_zero_iff hact.1]
    exact ⟨fun hone => ⟨hone, hact.2⟩, And.left⟩
  · rw [ftTick_of_not hact]
    refine ⟨nofun, fun ⟨hone, hsec⟩ => absurd ⟨?_, hsec⟩ hact⟩
    rw [hone]
    decide

/-! ### A TICK over a stopped timer -/

/-- `ev_ferm_complete` is none of the fan-out's strobes (44_dispatcher.md R245). -/
theorem fermComplete_mem_fanOutStep (s : State) : .fermComplete ∈ (fanOutStep s).events ↔ .fermComplete ∈ s.events := by
  rcases fanOutStep_events s with e | e | e <;> simp [e]

/-- The zero gate in a TICK: a stopped timer stays stopped and `ev_ferm_complete` does not fire (41_fermentation_timer.md R157). -/
theorem tickOperation_of_stopped {s : State} (hft : s.ft = 0) (hev : s.events = []) :
    (tickOperation s).ft = 0 ∧ .fermComplete ∉ (tickOperation s).events := by
  have htick : tickOperation s = fanOutStep (clockStep s).1 := by
    rw [tickOperation_eq, fermentationStep_of_stopped (s := (clockStep s).1) hft, ite_self]
  rw [htick, fermComplete_mem_fanOutStep, clockStep_events, hev, fanOutStep, runTask_ft, clockStep_ft]
  exact ⟨hft, List.not_mem_nil⟩

/-! ### The statements -/

/-- Settles O4: FT_START writes `startValue d`, whose hours are `(d + 1023) mod 1024`. -/
theorem ftStartDurationCorners : Obligations.FtStartDurationCorners := by
  unfold Obligations.FtStartDurationCorners
  intro d s hd hs
  refine ⟨_, exec_ftStart_accepting d hs, ?_⟩
  rw [startTimer_ft, ftHours_startValue]
  refine ⟨startValue_eq_shift_or d, ?_, ?_, ?_, ftMinutes_startValue d, startValue_ne_zero d⟩ <;> omega

/-- Settles O17: FT_TICK outside its phase by `ftTick_of_not`, its two decrements by the lemmas on `decrementTimer`, expiry by the two
characterisations, and the TICK by `tickOperation_of_stopped`. -/
theorem ftTickDecrementsOrBorrows : Obligations.FtTickDecrementsOrBorrows := by
  unfold Obligations.FtTickDecrementsOrBorrows
  refine ⟨fun ft phase sec => ⟨fun hidle => ?_, fun hne hsec hmin => ?_, fun hne hsec hmin => ?_,
    ftTick_expires_iff ft phase sec, ftTick_expires_iff_one ft phase sec⟩, fun s t hft htick => ?_⟩
  · exact ftTick_of_not fun ⟨hne, hsec⟩ => hidle.elim hne (absurd hsec)
  · rw [ftTick_of ⟨hne, hsec⟩]
    exact decrementTimer_of_minutes hmin
  · rw [ftTick_of ⟨hne, hsec⟩]
    exact decrementTimer_of_borrow hne hmin
  · obtain ⟨-, rfl⟩ := (exec_next_iff .tick s t).1 htick
    split
    · exact tickOperation_of_stopped (s := s.quiet) hft (quiet_events s)
    · rw [quiet_ft, quiet_events]
      exact ⟨hft, List.not_mem_nil⟩

/-- Settles O3: the effect of FT_START with `startValue_eq_ofNat`, and its word by `encode_ftStart_eq_or`. -/
theorem ftStartLoadsTimerAndPhase : Obligations.FtStartLoadsTimerAndPhase := by
  unfold Obligations.FtStartLoadsTimerAndPhase
  refine ⟨fun d s _ hs => ?_, fun d hd => ⟨encode_ftStart_eq_or hd, ?_⟩⟩
  · rw [exec_ftStart_accepting d hs, startTimer, startValue_eq_ofNat]
    rfl
  · rw [← encode_ftStart_eq_or hd]
    exact decode_encode (decide_eq_true hd)

/-- Settles O5: the effect of FT_STOP through the sequencer's gate, and its word by evaluation. -/
theorem ftStopClearsTimerOnly : Obligations.FtStopClearsTimerOnly := by
  unfold Obligations.FtStopClearsTimerOnly
  exact ⟨fun s hs => operate_accepting stopTimer hs, by decide, by decide⟩

end Sys2Proof.Machine
end

section
/-! The relay controller (42_relay_controller.md): the samples with the shifts of R8, one equation for an enabled invocation, what a disabled
one drives, and the state a TICK hands to its fan-out. -/

namespace Sys2Proof.Machine

/-! ### The two scalings -/

/-- `HYST >> 3` is the floor of the quotient by 8 (42_relay_controller.md R182). -/
theorem bandOffset_of_shift {c : Params} (h : c.hystShift = 3) (p : Ports) :
    bandOffset c p = Int.fdiv (p.hyst.bmod (2 ^ c.inW)) 8 := by
  rw [bandOffset, hystSample, signedLevel_eq, h, Int.fdiv_eq_ediv_of_nonneg _ (by decide)]
  rfl

/-- `DELAY << 7` is the product by 128 (42_relay_controller.md R183). -/
theorem holdLimit_of_shift {c : Params} (h : c.delayShift = 7) (p : Ports) :
    holdLimit c p = p.delay.bmod (2 ^ c.inW) * 128 := by
  rw [holdLimit, delaySample, signedLevel_eq, h]
  rfl

/-! ### An enabled invocation -/

/-- The decision an enabled invocation leaves: flipped out of band once the counted-up `HOLD` exceeds the limit, kept otherwise
(42_relay_controller.md R184, R187). -/
def nextActive (s : State) : Bool :=
  if outOfBand s = true ∧ holdLimit s.cfg s.ports < (increment s.cfg.holdW s.hold : Int) then !s.active else s.active

theorem nextActive_of_inBand {s : State} (h : outOfBand s = false) : nextActive s = s.active := by
  simp [nextActive, h]

theorem nextActive_of_wait {s : State} (h : (increment s.cfg.holdW s.hold : Int) ≤ holdLimit s.cfg s.ports) :
    nextActive s = s.active :=
  if_neg fun ⟨_, hlim⟩ => hlim.not_ge h

theorem nextActive_of_commit {s : State} (hband : outOfBand s = true)
    (hlim : holdLimit s.cfg s.ports < (increment s.cfg.holdW s.hold : Int)) : nextActive s = !s.active :=
  if_pos ⟨hband, hlim⟩

/-- The hysteresis algorithm in one equation: `HOLD` counts out of band and clears in band, and `OUT` is the level of the new decision. -/
theorem hysteresis_eq_nextActive (s : State) :
    hysteresis s =
      { s with
        active := nextActive s
        hold := if outOfBand s then increment s.cfg.holdW s.hold else 0
        out := if nextActive s then s.ports.mode else !s.ports.mode } := by
  unfold hysteresis nextActive outOfBand
  rcases s.active.eq_false_or_eq_true with ha | ha
  · cases hband : belowBand s.cfg s.ports
    · simp [ha]
    · by_cases hlim : holdLimit s.cfg s.ports < (increment s.cfg.holdW s.hold : Int) <;> simp [ha, hlim]
  · cases hband : aboveBand s.cfg s.ports
    · simp [ha]
    · by_cases hlim : holdLimit s.cfg s.ports < (increment s.cfg.holdW s.hold : Int) <;> simp [ha, hlim]

/-- An enabled invocation: the hysteresis algorithm, and `PULSE` cleared in the extended variant (42_relay_controller.md R193). -/
theorem relayInvoke_eq_nextActive {s : State} (h : s.enabled = true) :
    relayInvoke s =
      { s with
        active := nextActive s
        hold := if outOfBand s then increment s.cfg.holdW s.hold else 0
        pulse := if s.cfg.buzzer then 0 else s.pulse
        out := if nextActive s then s.ports.mode else !s.ports.mode } := by
  have hclear : clearPulse s = { s with pulse := if s.cfg.buzzer then 0 else s.pulse } := by
    unfold clearPulse
    split <;> rfl
  rw [relayInvoke_of_enabled h, hclear]
  exact hysteresis_eq_nextActive _

theorem relayInvoke_active_of_enabled {s : State} (h : s.enabled = true) : (relayInvoke s).active = nextActive s := by
  rw [relayInvoke_eq_nextActive h]

theorem relayInvoke_hold_of_enabled {s : State} (h : s.enabled = true) :
    (relayInvoke s).hold = if outOfBand s then increment s.cfg.holdW s.hold else 0 := by
  rw [relayInvoke_eq_nextActive h]

/-- Out of band for an active controller, on the levels the ports show (42_relay_controller.md R184). -/
theorem outOfBand_of_active {s : State} (ha : s.active = true) (hshift : s.cfg.hystShift = 3) :
    outOfBand s = decide (s.ports.temp.bmod (2 ^ s.cfg.inW) <
      s.ports.thr.bmod (2 ^ s.cfg.inW) - Int.fdiv (s.ports.hyst.bmod (2 ^ s.cfg.inW)) 8) := by
  rw [outOfBand, if_pos ha, belowBand, tempSample, thrSample, signedLevel_eq, signedLevel_eq, bandOffset_of_shift hshift]

/-- Out of band for an inactive controller, on the levels the ports show (42_relay_controller.md R187). -/
theorem outOfBand_of_inactive {s : State} (ha : s.active = false) (hshift : s.cfg.hystShift = 3) :
    outOfBand s = decide (s.ports.thr.bmod (2 ^ s.cfg.inW) + Int.fdiv (s.ports.hyst.bmod (2 ^ s.cfg.inW)) 8 <
      s.ports.temp.bmod (2 ^ s.cfg.inW)) := by
  rw [outOfBand, if_neg (ne_true_of_eq_false ha), aboveBand, tempSample, thrSample, signedLevel_eq, signedLevel_eq,
    bandOffset_of_shift hshift]

/-! ### A disabled invocation -/

/-- A disabled controller of the basic variant drives `MODE` (42_relay_controller.md R181). -/
theorem relayInvoke_of_disabled_basic {s : State} (he : s.enabled = false) (hb : s.cfg.buzzer = false) :
    relayInvoke s = { s with out := s.ports.mode } :=
  (relayInvoke_of_disabled he).trans (idleController_basic hb)

/-- A disabled controller of the extended variant runs the buzzer (42_relay_controller.md R181). -/
theorem relayInvoke_of_disabled_buzzer {s : State} (he : s.enabled = false) (hb : s.cfg.buzzer = true) :
    relayInvoke s = buzzerStep s.ports.mode s :=
  (relayInvoke_of_disabled he).trans (idleController_buzzer hb)

/-- A disabled invocation keeps the decision, in either variant (42_relay_controller.md R196; 43_buzzer.md R226). -/
theorem relayInvoke_keeps_decision {s : State} (he : s.enabled = false) :
    (relayInvoke s).active = s.active ∧ (relayInvoke s).hold = s.hold := by
  rcases s.cfg.buzzer.eq_false_or_eq_true with hb | hb
  · rw [relayInvoke_of_disabled_buzzer he hb]
    exact ⟨rfl, rfl⟩
  · rw [relayInvoke_of_disabled_basic he hb]
    exact ⟨rfl, rfl⟩

/-- So does whatever the fan-out selects while the controller is disabled. -/
theorem fanOutStep_keeps_decision {s : State} (he : s.enabled = false) :
    (fanOutStep s).active = s.active ∧ (fanOutStep s).hold = s.hold := by
  rcases fanOutStep_cases s with ⟨-, e⟩ | ⟨-, e⟩ | ⟨-, e⟩ | ⟨-, e⟩ <;> rw [e]
  · exact ⟨rfl, rfl⟩
  · exact ⟨rfl, rfl⟩
  · exact ⟨rfl, rfl⟩
  · exact relayInvoke_keeps_decision he

/-! ### A TICK, from the state it hands to its fan-out -/

/-- A TICK is its fan-out on `beforeFanOut` (44_dispatcher.md R240, R241). -/
theorem tickOperation_quiet (s : State) : tickOperation s.quiet = fanOutStep (beforeFanOut s) := by
  have hbefore :
      (if nextCarries s then fermentationStep { s.quiet with up := nextUp s } else { s.quiet with up := nextUp s }) =
        beforeFanOut s := by
    cases hcarry : nextCarries s with
    | false => simp [beforeFanOut, nextExpires, hcarry, State.quiet]
    | true =>
      cases hexpires : (ftTick s.ft s.phase (upSeconds (nextUp s))).2 <;>
        simp [beforeFanOut, nextExpires, hcarry, hexpires, fermentationStep_eq, expire, setEnabled, emit, State.quiet]
  rw [← hbefore]
  exact tickOperation_eq s.quiet

/-- A performed TICK is its fan-out on `beforeFanOut`. -/
theorem exec_tick_accepting {s : State} (hs : Accepting s) : exec .tick s = .next (fanOutStep (beforeFanOut s)) := by
  rw [← tickOperation_quiet, exec_eq_operate]
  exact operate_accepting tickOperation hs

/-- A TICK that finds the controller disabled, or force-disables it, fans out with the controller disabled. -/
theorem beforeFanOut_disabled {s : State} (h : s.enabled = false ∨ nextExpires s = true) :
    (beforeFanOut s).enabled = false := by
  rcases h with h | h <;> simp [beforeFanOut, h]

/-- Only a TICK that fans out with the controller enabled can write `ACTIVE` or `HOLD` (42_relay_controller.md R196). -/
theorem exec_keeps_decision {i : Instr} {s t : State} (h : exec i s = .next t)
    (htick : i = .tick → s.enabled = false ∨ nextExpires s = true) : t.active = s.active ∧ t.hold = s.hold := by
  obtain ⟨-, rfl⟩ := (exec_next_iff i s t).1 h
  split
  · cases i with
    | tick =>
      rw [effectOf, tickOperation_quiet]
      exact fanOutStep_keeps_decision (beforeFanOut_disabled (htick rfl))
    | nop | clkReset | ftStart | ftStop | rlyEnable | rlyDisable => exact ⟨rfl, rfl⟩
  · exact ⟨quiet_active s, quiet_hold s⟩

/-- A TICK that does not carry adds 1 to the whole word (40_clock.md R120). -/
theorem nextUp_of_not_carries {s : State} (hl : s.cfg.legal = true) (h : nextCarries s = false) : nextUp s = s.up + 1 := by
  obtain ⟨-, htps⟩ := (s.cfg.legal_iff).1 hl
  have hlt : upTicks s.up + 1 < s.cfg.tps := by
    by_contra hge
    rw [nextCarries, advance_of_le (Nat.not_lt.1 hge)] at h
    cases h
  rw [nextUp, advance_of_lt hlt, setTicks_succ (by omega)]
  rfl

/-- Without a carry, the fan-out finds the new uptime and nothing else changed. -/
theorem beforeFanOut_of_not_carries {s : State} (hl : s.cfg.legal = true) (h : nextCarries s = false) :
    beforeFanOut s = { s with up := s.up + 1, events := [], readData := none } := by
  simp [beforeFanOut, nextExpires, h, nextUp_of_not_carries hl h]

/-- A fan-out that selects RELAY is a relay invocation (44_dispatcher.md R249). -/
theorem fanOutStep_of_relay {s : State} (h : selectedTask s = .relay) : fanOutStep s = relayInvoke s := by
  rw [fanOutStep, h]
  rfl

/-! ### The statements -/

/-- Settles O8: each of the three is a command that `exec_keeps_decision` covers. -/
theorem disablingKeepsDecision : Obligations.DisablingKeepsDecision := by
  unfold Obligations.DisablingKeepsDecision
  refine ⟨fun s t h => ?_, fun s t hexp h => exec_keeps_decision h fun _ => .inr hexp,
    fun i s t he h => exec_keeps_decision h fun _ => .inl he⟩
  rcases h with h | h
  · exact exec_keeps_decision h nofun
  · exact exec_keeps_decision h nofun

/-- Settles O23: each case gives `outOfBand` and `nextActive`, and `relayInvoke_eq_nextActive` the whole state. -/
theorem enabledInvocationFollowsHysteresis : Obligations.EnabledInvocationFollowsHysteresis := by
  unfold Obligations.EnabledInvocationFollowsHysteresis
  intro s he hhyst hdelay temp thr b lim held m pulse
  have hlimit : holdLimit s.cfg s.ports = lim := holdLimit_of_shift hdelay s.ports
  have hactive (ha : s.active = true) : outOfBand s = decide (temp < thr - b) := outOfBand_of_active ha hhyst
  have hinactive (ha : s.active = false) : outOfBand s = decide (thr + b < temp) := outOfBand_of_inactive ha hhyst
  have hcommit (hband : outOfBand s = true) (hlim : lim < (held : Int)) : nextActive s = !s.active :=
    nextActive_of_commit hband (hlimit.trans_lt hlim)
  have hwait (hlim : (held : Int) ≤ lim) : nextActive s = s.active := nextActive_of_wait (hlim.trans_eq hlimit.symm)
  rw [relayInvoke_eq_nextActive he]
  refine ⟨fun ha hband hlim => ?_, fun ha hband hlim => ?_, fun ha hband => ?_,
    fun ha hband hlim => ?_, fun ha hband hlim => ?_, fun ha hband => ?_⟩
  · have hout : outOfBand s = true := (hactive ha).trans (decide_eq_true hband)
    rw [hcommit hout hlim, hout, ha]
    rfl
  · rw [hwait hlim, hactive ha, decide_eq_true hband, ha]
    rfl
  · have hin : outOfBand s = false := (hactive ha).trans (decide_eq_false hband.not_gt)
    rw [nextActive_of_inBand hin, hin, ha]
    rfl
  · have hout : outOfBand s = true := (hinactive ha).trans (decide_eq_true hband)
    rw [hcommit hout hlim, hout, ha]
    rfl
  · rw [hwait hlim, hinactive ha, decide_eq_true hband, ha]
    rfl
  · have hin : outOfBand s = false := (hinactive ha).trans (decide_eq_false hband.not_gt)
    rw [nextActive_of_inBand hin, hin, ha]
    rfl

/-- Settles O24: the invocation by `relayInvoke_of_disabled_basic`, and the TICK as that invocation on `UP + 1`. -/
theorem disabledBasicControllerDrivesMode : Obligations.DisabledBasicControllerDrivesMode := by
  unfold Obligations.DisabledBasicControllerDrivesMode
  refine fun s he hb => ⟨relayInvoke_of_disabled_basic he hb, fun hs hcarry htask => ?_⟩
  have hselected : selectedTask (beforeFanOut s) = .relay := htask
  rw [exec_tick_accepting hs, fanOutStep_of_relay hselected, beforeFanOut_of_not_carries hs.1 hcarry]
  exact congrArg Host.Outcome.next (relayInvoke_of_disabled_basic he hb)

/-- Settles O26: a count stays below 2^`HOLD_W`, so a limit from 2^`HOLD_W` - 1 on keeps the decision; and the last count wraps to 0, which
is what the limit is compared with. -/
theorem holdWrapsAndLongDelaysNeverCommit : Obligations.HoldWrapsAndLongDelaysNeverCommit := by
  unfold Obligations.HoldWrapsAndLongDelaysNeverCommit
  have hkeeps (s : State) (he : s.enabled = true)
      (hlim : ((2 ^ s.cfg.holdW : Nat) : Int) ≤ holdLimit s.cfg s.ports + 1) : (relayInvoke s).active = s.active := by
    have hcount := increment_lt s.cfg.holdW s.hold
    rw [relayInvoke_active_of_enabled he, nextActive_of_wait (by omega)]
  refine ⟨hkeeps, fun s he hwidth hshift hdelay => hkeeps s he ?_, fun s he hlast hband => ?_⟩
  · rw [hwidth, holdLimit_of_shift hshift]
    omega
  · have hwrap : increment s.cfg.holdW s.hold = 0 := increment_of_eq hlast
    rw [relayInvoke_hold_of_enabled he, relayInvoke_active_of_enabled he, if_pos hband, nextActive, hwrap]
    exact ⟨rfl, if_congr (and_iff_right hband) rfl rfl⟩

/-- Settles O31: the variants differ in the `PULSE` field of `relayInvoke_eq_nextActive` alone; RLY_ENABLE by its effect. -/
theorem enabledInvocationClearsPulse : Obligations.EnabledInvocationClearsPulse := by
  unfold Obligations.EnabledInvocationClearsPulse
  refine ⟨fun s he hb => ?_, fun s hs => ⟨_, operate_accepting (setEnabled true) hs, rfl⟩⟩
  have hbasic := relayInvoke_eq_nextActive (s := { s with cfg := { s.cfg with buzzer := false } }) he
  rw [relayInvoke_eq_nextActive he, hbasic, if_pos hb]
  exact ⟨rfl, rfl⟩

/-- Settles O6: the effect of RLY_ENABLE through the sequencer's gate, and its word by evaluation. -/
theorem rlyEnableSetsEnabledOnly : Obligations.RlyEnableSetsEnabledOnly := by
  unfold Obligations.RlyEnableSetsEnabledOnly
  exact ⟨fun s hs => operate_accepting (setEnabled true) hs, by decide, by decide⟩

/-- Settles O7: the effect of RLY_DISABLE through the sequencer's gate, the next invocation as a disabled one, and its word by
evaluation. -/
theorem rlyDisableClearsEnabledOnly : Obligations.RlyDisableClearsEnabledOnly := by
  unfold Obligations.RlyDisableClearsEnabledOnly
  refine ⟨fun s hs => ?_, by decide, by decide⟩
  have hdisable : exec .rlyDisable s = .next (setEnabled false s.quiet) := operate_accepting (setEnabled false) hs
  refine ⟨hdisable, fun t ht => ?_⟩
  obtain rfl : setEnabled false s.quiet = t := Host.Outcome.next.inj (hdisable.symm.trans ht)
  exact ⟨fun hb => by rw [relayInvoke_of_disabled_basic rfl hb], fun hb => by rw [relayInvoke_of_disabled_buzzer rfl hb]⟩

/-- Settles O22: the floor of `bandOffset_of_shift`, the product of `holdLimit_of_shift` with the bounds of a 16-bit level, and
`signedLevel_of_fits`. -/
theorem scalingsAreExact : Obligations.ScalingsAreExact := by
  unfold Obligations.ScalingsAreExact
  intro c p hyst delay
  refine ⟨fun hshift => ?_, fun hshift => ⟨holdLimit_of_shift hshift p, fun hwidth => ?_⟩, fun x hwidth hlo hhi => ?_⟩
  · have hfloor : bandOffset c p = hyst / 8 :=
      (bandOffset_of_shift hshift p).trans (Int.fdiv_eq_ediv_of_nonneg _ (by decide))
    rw [hfloor]
    omega
  · have hlo : -(((2 ^ 16 : Nat) : Int) / 2) ≤ p.delay.bmod (2 ^ 16) := Int.le_bmod (by decide)
    have hhi : p.delay.bmod (2 ^ 16) < (((2 ^ 16 : Nat) : Int) + 1) / 2 := Int.bmod_lt (by decide)
    rw [holdLimit_of_shift hshift, hwidth]
    omega
  · rw [hwidth]
    exact signedLevel_of_fits (by omega) (by omega)

end Sys2Proof.Machine
end

section
/-! The buzzer (43_buzzer.md): one invocation by the phase of its count, and the ports it does not read. -/

namespace Sys2Proof.Machine

/-- The three phases of R220 on the incremented count: settle and cooldown drive the idle level, buzz inverts the latch. -/
theorem buzzerStep_eq_phases (m : Bool) (s : State) :
    buzzerStep m s =
      let n := (s.pulse + 1) % 2 ^ s.cfg.pulseW
      { s with
        pulse := if s.cfg.bzCycleEnd ≤ n then 0 else n
        out := if n ≤ s.cfg.bzSettleEnd then m else if n ≤ s.cfg.bzBuzzEnd then !s.out else m } := rfl

/-- Given the idle level, BUZZER_STEP commutes with a drive of the ports: it does not read them (R226). -/
theorem buzzerStep_with_ports (m : Bool) (s : State) (p : Ports) :
    buzzerStep m { s with ports := p } = { buzzerStep m s with ports := p } := rfl

/-- A disabled invocation of the extended variant reads no port but `MODE` (R226). -/
theorem relayInvoke_with_ports_of_disabled_buzzer {s : State} (he : s.enabled = false) (hb : s.cfg.buzzer = true) {p : Ports}
    (hmode : p.mode = s.ports.mode) : relayInvoke { s with ports := p } = { relayInvoke s with ports := p } :=
  calc relayInvoke { s with ports := p }
    _ = buzzerStep p.mode { s with ports := p } := relayInvoke_of_disabled_buzzer he hb
    _ = { buzzerStep s.ports.mode s with ports := p } := by rw [hmode, buzzerStep_with_ports]
    _ = { relayInvoke s with ports := p } := by rw [relayInvoke_of_disabled_buzzer he hb]

/-- Settles O30: the invocation is a BUZZER_STEP by its phases, it keeps the decision as every disabled invocation does, and it reads no
port but `MODE`. -/
theorem buzzerStepFollowsItsPhases : Obligations.BuzzerStepFollowsItsPhases := by
  unfold Obligations.BuzzerStepFollowsItsPhases
  intro s he hb n
  have hphases := (relayInvoke_of_disabled_buzzer he hb).trans (buzzerStep_eq_phases s.ports.mode s)
  obtain ⟨hactive, hhold⟩ := relayInvoke_keeps_decision he
  exact ⟨hphases, hactive, hhold, fun _ hmode => relayInvoke_with_ports_of_disabled_buzzer he hb hmode⟩

end Sys2Proof.Machine
end

section
/-! The tick dispatcher (44_dispatcher.md): a TICK as its one selected task on the state the earlier steps left, what each task fires, and the
relay state under the other commands. -/

namespace Sys2Proof.Machine

/-! ### A TICK as its selected task -/

/-- A performed TICK runs the task of the new ticks field on `beforeFanOut` (44_dispatcher.md R241, R245). -/
theorem exec_tick_eq_runTask {s : State} (hs : Accepting s) :
    exec .tick s = .next (runTask (nextTask s) (beforeFanOut s)) :=
  exec_tick_accepting hs

/-- What ADVANCE and the fermentation step leave, by carry and expiry (44_dispatcher.md R243, R244). -/
theorem beforeFanOut_eq_ite (s : State) :
    beforeFanOut s =
      if nextCarries s = true then
        if (ftTick s.ft s.phase (upSeconds (nextUp s))).2 = true then
          { s with
            up := nextUp s
            ft := (ftTick s.ft s.phase (upSeconds (nextUp s))).1
            enabled := false
            events := [.fermComplete]
            readData := none }
        else
          { s with
            up := nextUp s
            ft := (ftTick s.ft s.phase (upSeconds (nextUp s))).1
            events := []
            readData := none }
      else { s with up := nextUp s, events := [], readData := none } := by
  unfold beforeFanOut nextExpires
  cases nextCarries s with
  | false => rfl
  | true => cases (ftTick s.ft s.phase (upSeconds (nextUp s))).2 <;> rfl

/-! ### The strobes of the fan-out -/

/-- Before its fan-out a TICK has fired `ev_ferm_complete` at most (44_dispatcher.md R240). -/
theorem not_mem_beforeFanOut {e : Event} (he : e ≠ .fermComplete) (s : State) : e ∉ (beforeFanOut s).events := by
  unfold beforeFanOut
  dsimp only
  split
  · exact fun hmem => he (List.mem_singleton.1 hmem)
  · exact List.not_mem_nil

/-- UI fires `ev_ui_refresh`, SENSOR `ev_sensor_start`, and no task fires anything else (44_dispatcher.md R247 to R249). -/
theorem mem_events_runTask (e : Event) (k : Task) (s : State) :
    e ∈ (runTask k s).events ↔ e ∈ s.events ∨ (k = .ui ∧ e = .uiRefresh) ∨ (k = .sensor ∧ e = .sensorStart) := by
  cases k <;> simp [runTask]

/-! ### The commands other than TICK -/

/-- Only a TICK invokes the relay controller, so no other command writes its state (44_dispatcher.md R249). -/
theorem exec_keeps_relay {i : Instr} {s t : State} (hi : i ≠ .tick) (h : exec i s = .next t) :
    t.active = s.active ∧ t.hold = s.hold ∧ t.pulse = s.pulse ∧ t.out = s.out := by
  obtain ⟨-, rfl⟩ := (exec_next_iff i s t).1 h
  split
  · cases i with
    | tick => exact absurd rfl hi
    | nop | clkReset | ftStart | ftStop | rlyEnable | rlyDisable => exact ⟨rfl, rfl, rfl, rfl⟩
  · exact ⟨quiet_active s, quiet_hold s, quiet_pulse s, quiet_out s⟩

/-! ### The statements -/

/-- Settles O14: a TICK is its selected task on `beforeFanOut`, which `beforeFanOut_eq_ite` writes out by carry and expiry; its word by
evaluation. -/
theorem tickRunsItsStepsInOrder : Obligations.TickRunsItsStepsInOrder := by
  unfold Obligations.TickRunsItsStepsInOrder
  refine ⟨fun s hs => ?_, by decide, by decide⟩
  rw [exec_tick_eq_runTask hs, beforeFanOut_eq_ite]
  rfl

/-- Settles O15: a TICK is its selected task on a state where neither strobe of the fan-out has fired; the other commands by
`exec_keeps_relay`. -/
theorem tickRunsAtMostOneTask : Obligations.TickRunsAtMostOneTask := by
  unfold Obligations.TickRunsAtMostOneTask
  refine ⟨fun s t hs h => ?_, fun i s t hi h => exec_keeps_relay hi h⟩
  obtain rfl : runTask (nextTask s) (beforeFanOut s) = t := Host.Outcome.next.inj ((exec_tick_eq_runTask hs).symm.trans h)
  refine ⟨?_, ?_, fun hk => ?_, fun hk => ?_, fun hk => ?_, fun hk => ?_⟩
  · simp [mem_events_runTask, not_mem_beforeFanOut]
  · simp [mem_events_runTask, not_mem_beforeFanOut]
  all_goals rw [hk]; rfl

/-- Settles O1: the effect of NOP through the sequencer's gate, a reserved word as no operation, and the word by evaluation. -/
theorem nopHasNoEffect : Obligations.NopHasNoEffect := by
  unfold Obligations.NopHasNoEffect
  refine ⟨fun s hs => operate_accepting noEffect hs, fun w s hopc => ?_, by decide, by decide⟩
  rw [perform, decode_of_reserved hopc]
  rfl

end Sys2Proof.Machine
end

section
/-! Arrivals at the same instant (60_exceptions.md): a pulse of `tick_in` together with a host access is the TICK and then the access. -/

namespace Sys2Proof.Machine

/-! ### A pulse of `tick_in` with a host access -/

/-- A run of one step is that step, its stops included. -/
theorem run_one (s : State) : run 1 s = step s := by
  unfold run
  cases step s with
  | next t => rfl
  | fault r => rfl
  | refused r => rfl

/-- With a host access at the same instant, the step of the pulse is the TICK alone, and the access is the next to arrive. -/
theorem step_tickInWith (a : Access) {s t : State} {rest : List Arrival} (hl : s.cfg.legal = true)
    (h : exec .tick { s with inbox := rest } = .next t) :
    step { s with inbox := .tickInWith a :: rest } = .next { t with inbox := .access a :: rest } := by
  have hserve : step { s with inbox := .tickInWith a :: rest } = exec .tick { s with inbox := .access a :: rest } := step_legal hl
  have htick := exec_withInbox .tick (.access a :: rest) h
  exact hserve.trans htick

/-! ### The statement -/

/-- Settles O47: the first step is the TICK with the write left to arrive, and the second step performs the word on the state of that TICK,
which has kept the address of `CMD` and what arrives after. -/
theorem simultaneousTickComesFirst : Obligations.SimultaneousTickComesFirst := by
  unfold Obligations.SimultaneousTickComesFirst
  intro s w rest hs
  have hl : s.cfg.legal = true := hs.1
  obtain ⟨t, htick, (hcfg : t.cfg = s.cfg), (hinbox : t.inbox = rest)⟩ := exec_completes .tick (s := { s with inbox := rest }) hl
  have hpulse := step_tickInWith (.write (cmdAddress s.cfg) .word w) hl htick
  have hwrite := step_commandWrite w rest (s := t) (hcfg ▸ hl)
  refine ⟨t, htick, ?_⟩
  calc
    _ = run 1 { t with inbox := commandWrite s.cfg w :: rest } := run_succ_of_next hpulse
    _ = step { t with inbox := commandWrite t.cfg w :: rest } := by rw [run_one, hcfg]
    _ = perform w { t with inbox := rest } := hwrite
    _ = perform w t := by rw [← hinbox]

end Sys2Proof.Machine
end

section
/-! The reset pin (70_reset_and_hazards.md): what the block does with a command, a read and a level of `rst_n` while `rst_n` is low. -/

namespace Sys2Proof.Machine

/-! ### Commands while `rst_n` is low -/

/-- While `rst_n` is low a command is dropped. -/
theorem exec_dropped (i : Instr) {s : State} (hl : s.cfg.legal = true) (hr : s.rstN = false) : exec i s = .next s.quiet := by
  rw [exec_eq_operate, operate_dropped _ hl hr]

/-- While `rst_n` is low a command word is dropped, whatever it decodes to. -/
theorem perform_dropped (w : Word) {s : State} (hl : s.cfg.legal = true) (hr : s.rstN = false) :
    perform w s = .next s.quiet := by
  rw [perform_eq_operate, operate_dropped _ hl hr]

/-! ### Reads while `rst_n` is low -/

/-- A register shows the same after the reset of the registers as after power-on: both leave every register 0. -/
theorem registerValue_resetRegisters (r : RegName) (s : State) :
    registerValue r (resetRegisters s) = registerValue r (State.powerOn s.cfg s.ports) := by
  cases r <;> rfl

/-- While `rst_n` is low a register reads as right after power-on, whatever it holds. -/
theorem readRegister_of_low (r : RegName) {s : State} (hr : s.rstN = false) :
    readRegister r s = readRegister r (State.powerOn s.cfg s.ports) := by
  have hlow : readRegister r s = registerValue r (resetRegisters s) := if_neg (Bool.eq_false_iff.1 hr)
  have hpowered : readRegister r (State.powerOn s.cfg s.ports) = registerValue r (State.powerOn s.cfg s.ports) :=
    readRegister_of_rstN r rfl
  rw [hlow, hpowered, registerValue_resetRegisters]

/-! ### The levels of `rst_n` -/

/-- A level of `rst_n` is served in one step. -/
theorem step_resetPin (level : Bool) {s : State} (rest : List Arrival) (hl : s.cfg.legal = true) :
    step { s with inbox := .resetPin level :: rest } = .next (setResetPin level { s with inbox := rest }) :=
  step_legal hl

/-- The pin takes every level, a high level on a high pin included. -/
@[simp] theorem setResetPin_rstN (level : Bool) (s : State) : (setResetPin level s).rstN = level := by
  unfold setResetPin
  split
  case isTrue h =>
    obtain ⟨rfl, hhigh⟩ := (Bool.and_eq_true _ _).mp h
    exact hhigh
  case isFalse => rfl

@[simp] theorem setResetPin_inbox (level : Bool) (s : State) : (setResetPin level s).inbox = s.inbox := by
  unfold setResetPin
  split <;> rfl

/-- The rise of `rst_n` leaves the block as right after power-on: its ports, its configuration and what is to arrive are kept. -/
theorem setResetPin_rise {s : State} (hr : s.rstN = false) :
    setResetPin true s = { State.powerOn s.cfg s.ports with inbox := s.inbox } := by
  unfold setResetPin
  rw [hr]
  rfl

/-! ### The statement -/

/-- Settles O48: the pin's levels by the lemmas of `setResetPin`; the TICK and the command word are dropped at the sequencer's gate; a read
answers what the register shows after power-on. -/
theorem resetPinHoldsAndReleases : Obligations.ResetPinHoldsAndReleases := by
  unfold Obligations.ResetPinHoldsAndReleases
  refine ⟨fun s rest hl => ?_, fun s rest hl hr => ⟨?_, fun w => ?_, fun r => ?_, ?_⟩⟩
  · exact ⟨_, step_resetPin false rest hl, setResetPin_rstN _ _, setResetPin_events _ _, setResetPin_inbox _ _⟩
  · exact (step_tickIn rest hl).trans (exec_dropped .tick (s := { s with inbox := rest }) hl hr)
  · exact (step_commandWrite w rest hl).trans (perform_dropped w (s := { s with inbox := rest }) hl hr)
  · have hread := step_read_register r (rest := rest)
      (s := { s with inbox := .access (.read (s.cfg.base + offsetOf r) .word) :: rest }) hl rfl
    rwa [readRegister_congr_record, readRegister_of_low r hr] at hread
  · exact (step_resetPin true rest hl).trans (congrArg Host.Outcome.next (setResetPin_rise (s := { s with inbox := rest }) hr))

end Sys2Proof.Machine
end

section
/-! Decode and encode (30_encoding.md): the two agree on every well-formed command, every word has one outcome, and a write to `CMD` runs
the command its word decodes to. -/

namespace Sys2Proof

/-- The byte lanes of a whole word give the decoder that word back. -/
theorem decodeTableWord_toNat {w : Word} {i : Instr} (h : decode w = .op i) : decodeTableWord 32 w.toNat = some i := by
  have hword : BitVec.ofNat 32 (w.toNat % 2 ^ 32) = w := by
    rw [Nat.mod_eq_of_lt w.isLt, BitVec.ofNat_toNat, BitVec.setWidth_eq]
  have hbytes : decodeBytes (wordLanes w) = .ok (.op i, []) := by
    rw [← h]
    exact decodeBytes_wordLanes w []
  -- Unfolded as a whole function: applied to an open word, the kernel would try to evaluate the decoder on it.
  generalize hD : decodeTableWord = D
  delta decodeTableWord at hD
  subst hD
  dsimp only
  rw [hword, hbytes]

/-- Below 7 every opcode is a command's, and for FT_START the decoder takes its operand from `IMM16` (30_encoding.md R94, R96). -/
theorem decode_of_opcode_lt {w : Word} (h : opcodeOf w < 7) :
    ∃ i, decode w = .op i ∧ i.wellFormed = true ∧ opcodeFor i = opcodeOf w ∧
      operandFor i = if opcodeOf w = 3 then imm16Of w else 0 := by
  unfold decode
  match opcodeOf w, h with
  | 0, _ => exact ⟨.nop, rfl, rfl, rfl, rfl⟩
  | 1, _ => exact ⟨.tick, rfl, rfl, rfl, rfl⟩
  | 2, _ => exact ⟨.clkReset, rfl, rfl, rfl, rfl⟩
  | 3, _ => exact ⟨.ftStart (imm16Of w), rfl, decide_eq_true (Nat.le_of_lt_succ (field_lt w 0 16)), rfl, rfl⟩
  | 4, _ => exact ⟨.ftStop, rfl, rfl, rfl, rfl⟩
  | 5, _ => exact ⟨.rlyEnable, rfl, rfl, rfl, rfl⟩
  | 6, _ => exact ⟨.rlyDisable, rfl, rfl, rfl, rfl⟩

theorem opcodeFor_lt (i : Instr) : opcodeFor i < 7 := by
  cases i <;> simp [opcodeFor]

/-- The operand of a well-formed command fits in `IMM16` (30_encoding.md R95). -/
theorem operandFor_lt {i : Instr} (h : i.wellFormed = true) : operandFor i < 65536 := by
  cases i with
  | ftStart d => exact Nat.lt_succ_of_le (of_decide_eq_true h)
  | nop | tick | clkReset | ftStop | rlyEnable | rlyDisable => decide

/-- The canonical word of a well-formed command is its opcode above its operand (30_encoding.md R90). -/
theorem encode_eq_ofNat {i : Instr} (h : i.wellFormed = true) :
    encode i = BitVec.ofNat 32 (opcodeFor i * 2 ^ 24 + operandFor i) := by
  have hopc := opcodeFor_lt i
  have himm := operandFor_lt h
  apply BitVec.eq_of_toNat_eq
  rw [toNat_encode, BitVec.toNat_ofNat]
  omega

/-! ### The statements -/

/-- Settles O43: `decode_encode` on the word, and the byte lanes of the word by `decodeBytes_wordLanes` and `decodeTableWord_toNat`. -/
theorem decodeOfEncodeIsIdentity : Obligations.DecodeOfEncodeIsIdentity := by
  unfold Obligations.DecodeOfEncodeIsIdentity
  intro i hi
  have hword := decode_encode hi
  refine ⟨hword, fun rest => ?_, decodeTableWord_toNat hword⟩
  rw [encodeBytes, decodeBytes_wordLanes, hword]

/-- Settles O42: an opcode below 7 by `decode_of_opcode_lt`, any other by `decode_of_reserved`. -/
theorem everyWordDecodesToOneOutcome : Obligations.EveryWordDecodesToOneOutcome := by
  unfold Obligations.EveryWordDecodesToOneOutcome
  intro w
  rcases Nat.lt_or_ge (opcodeOf w) 7 with hopc | hopc
  · obtain ⟨i, hdecode, hwf, hcode, hoperand⟩ := decode_of_opcode_lt hopc
    refine .inl ⟨hopc, i, hdecode, hwf, ?_⟩
    rw [encode_eq_ofNat hwf, hcode, hoperand]
  · exact .inr ⟨hopc, decode_of_reserved hopc⟩

/-- Settles O44, by evaluation of the decoder on the five words. -/
theorem writtenOutWordsDecode : Obligations.WrittenOutWordsDecode := by
  unfold Obligations.WrittenOutWordsDecode
  decide

end Sys2Proof

namespace Sys2Proof.Machine

/-- Settles O45: a write to `CMD` performs its word, which is `exec` of the command it decodes to. -/
theorem stepRunsDecodedCommand : Obligations.StepRunsDecodedCommand := by
  unfold Obligations.StepRunsDecodedCommand
  intro s w i rest hl hin hdecode
  rw [step_write_register .cmd w hl hin, if_pos rfl, perform, hdecode]

end Sys2Proof.Machine
end

section
/-! The uptime counter on the values a run reaches (40_clock.md; 10_state.md R22): each field's carry, the ranges that ADVANCE keeps, and
a TICK as one count. -/

namespace Sys2Proof.Machine

/-! ### ADVANCE on fields in range -/

/-- A TICK carries when the ticks field would reach `TPS` (40_clock.md R121). -/
theorem advance_carries_iff (tps : Nat) (up : Word) : (advance tps up).2 = true ↔ tps ≤ upTicks up + 1 := by
  rcases Nat.lt_or_ge (upTicks up + 1) tps with h | h
  · simp [advance_of_lt h, h]
  · simp [advance_of_le h, h]

/-- From fields in range the carry is at the last tick exactly. -/
theorem nextCarries_iff {s : State} (h : UptimeInRange s.cfg.tps s.up) : nextCarries s = true ↔ upTicks s.up + 1 = s.cfg.tps := by
  have hticks := h.1
  rw [nextCarries, advance_carries_iff]
  omega

/-- Settles O11, by the field the carry stops at: none, seconds, minutes, hours or days. -/
theorem advanceCarriesFieldByField : Obligations.AdvanceCarriesFieldByField := by
  unfold Obligations.AdvanceCarriesFieldByField
  intro tps up _ htps hrange u perSecond perMinute perHour perDay
  obtain ⟨hticks, hs, hm, hh⟩ := hrange
  have hd := upDays_lt up
  by_cases hsecond : upTicks up + 1 = tps
  case neg =>
    have hu : u = packUptime (upTicks up + 1) (upSeconds up) (upMinutes up) (upHours up) (upDays up) := by
      have hlt : upTicks up + 1 < tps := by omega
      have hfit : (upTicks up + 1) % 512 = upTicks up + 1 := Nat.mod_eq_of_lt (by omega)
      simp only [u, advance_of_lt hlt, setTicks_eq_packUptime, hfit]
    rw [hu]
    simpa [perSecond, perMinute, perHour, perDay, hsecond] using
      fields_packUptime (show upTicks up + 1 < 512 by omega) (by omega) (by omega) (by omega) hd
  have hu : u = carrySeconds (packUptime 0 (upSeconds up) (upMinutes up) (upHours up) (upDays up)) := by
    simp only [u, advance_of_le hsecond.ge, setTicks_eq_packUptime, Nat.zero_mod]
  have ht : 0 < 512 := by decide
  rw [hu, carrySeconds_packUptime ht hs (by omega) (by omega) hd]
  by_cases hminute : upSeconds up = 59
  case neg =>
    rw [if_neg hminute]
    simpa [perSecond, perMinute, perHour, perDay, hsecond, hminute] using
      fields_packUptime ht (show upSeconds up + 1 < 64 by omega) (by omega) (by omega) hd
  rw [if_pos hminute, carryMinutes_packUptime ht (by decide) hm (by omega) hd]
  by_cases hhour : upMinutes up = 59
  case neg =>
    rw [if_neg hhour]
    simpa [perSecond, perMinute, perHour, perDay, hsecond, hminute, hhour] using
      fields_packUptime ht (show 0 < 64 by decide) (show upMinutes up + 1 < 64 by omega) (by omega) hd
  rw [if_pos hhour, carryHours_packUptime ht (by decide) (by decide) hh hd]
  by_cases hday : upHours up = 23
  case neg =>
    rw [if_neg hday]
    simpa [perSecond, perMinute, perHour, perDay, hsecond, hminute, hhour, hday] using
      fields_packUptime ht (show 0 < 64 by decide) (show 0 < 64 by decide) (show upHours up + 1 < 32 by omega) hd
  rw [if_pos hday]
  simpa [perSecond, perMinute, perHour, perDay, hsecond, hminute, hhour, hday] using
    fields_packUptime ht (show 0 < 64 by decide) (show 0 < 64 by decide) (show 0 < 32 by decide)
      (show (upDays up + 1) % 64 < 64 from Nat.mod_lt _ (by decide))

/-- ADVANCE keeps every field in its range (10_state.md R22). -/
theorem uptimeInRange_advance {tps : Nat} {up : Word} (hpos : 1 ≤ tps) (htps : tps ≤ 511) (h : UptimeInRange tps up) :
    UptimeInRange tps (advance tps up).1 := by
  obtain ⟨eticks, eseconds, eminutes, ehours, -⟩ := advanceCarriesFieldByField tps up hpos htps h
  obtain ⟨hticks, hseconds, hminutes, hhours⟩ := h
  refine ⟨?_, ?_, ?_, ?_⟩
  · rw [eticks]
    split_ifs <;> omega
  · rw [eseconds]
    split_ifs <;> omega
  · rw [eminutes]
    split_ifs <;> omega
  · rw [ehours]
    split_ifs <;> omega

/-- A performed TICK is `tickOperation` on the quiet state. -/
theorem exec_tick_quiet {s : State} (hs : Accepting s) : exec .tick s = .next (tickOperation s.quiet) :=
  operate_accepting tickOperation hs

/-! ### The statements -/

/-- Settles O9: the ranges by `uptimeInRange_advance`, the count by `uptimeTicks_advance`, and what a TICK leaves by its frame lemmas. -/
theorem tickCountsUptimeModuloPeriod : Obligations.TickCountsUptimeModuloPeriod := by
  unfold Obligations.TickCountsUptimeModuloPeriod
  intro s hs hrange
  obtain ⟨hpos, htps⟩ := (s.cfg.legal_iff).1 hs.1
  have hup : (tickOperation s.quiet).up = (advance s.cfg.tps s.up).1 := tickOperation_up s.quiet
  refine ⟨_, exec_tick_quiet hs, ?_, ?_, nextCarries_iff hrange, tickOperation_phase _, tickOperation_ports _,
    tickOperation_rstN _, tickOperation_cfg _, tickOperation_inbox _, tickOperation_readData _⟩
  · rw [hup]
    exact uptimeInRange_advance hpos htps hrange
  · rw [hup]
    exact uptimeTicks_advance htps hrange

/-- Settles O13: the selected task runs on `beforeFanOut`, which without a carry is the state with `UP + 1`. -/
theorem tickWithoutCarryIncrementsRawWord : Obligations.TickWithoutCarryIncrementsRawWord := by
  unfold Obligations.TickWithoutCarryIncrementsRawWord
  intro s hs hcarry
  rw [exec_tick_eq_runTask hs, beforeFanOut_of_not_carries hs.1 hcarry]

end Sys2Proof.Machine
end

section
/-! The invariant (10_state.md, reachable values): it holds in every state whose registers hold their reset values, every command and every
step keeps it, and so does every run from power-on. -/

namespace Sys2Proof.Machine

/-! ### States at reset, and what stands outside the block -/

theorem uptimeInRange_zero {tps : Nat} (h : 1 ≤ tps) : UptimeInRange tps 0 :=
  ⟨h, by decide, by decide, by decide⟩

/-- A state whose registers hold their reset values has the invariant (10_state.md R40). -/
theorem inv_resetRegisters {s : State} (hl : s.cfg.legal = true) (hev : s.events ∈ eventLists) : Inv (resetRegisters s) where
  legal := hl
  uptime := uptimeInRange_zero ((s.cfg.legal_iff).1 hl).1
  minutes := (by decide : ftMinutes 0 ≤ 59)
  phase := (by decide : (0 : PhaseWord).toNat ≤ 59)
  absentPulse _ := rfl
  pulseBound := .inl rfl
  holdWidth := Nat.two_pow_pos _
  pulseWidth := Nat.two_pow_pos _
  heldInReset _ := rfl
  events := hev

/-- The invariant speaks of the registers, the configuration, `rst_n` and the strobes: the ports, what is to arrive and the last answer on
the bus are free. -/
theorem Inv.withRecord {s : State} (h : Inv s) (p : Ports) (inbox : List Arrival) {events : List Event} (answer : Option Word)
    (hev : events ∈ eventLists) : Inv { s with ports := p, inbox := inbox, events := events, readData := answer } where
  legal := h.legal
  uptime := h.uptime
  minutes := h.minutes
  phase := h.phase
  absentPulse := h.absentPulse
  pulseBound := h.pulseBound
  holdWidth := h.holdWidth
  pulseWidth := h.pulseWidth
  heldInReset hlow :=
    congrArg (fun u : State => { u with ports := p, inbox := inbox, events := events, readData := answer }) (h.heldInReset hlow)
  events := hev

theorem nil_mem_eventLists : [] ∈ eventLists := List.mem_cons_self

theorem Inv.quiet {s : State} (h : Inv s) : Inv s.quiet :=
  h.withRecord s.ports s.inbox none nil_mem_eventLists

/-- Either level of `rst_n` keeps the invariant (70_reset_and_hazards.md R300). -/
theorem Inv.setResetPin {s : State} (h : Inv s) (level : Bool) : Inv (setResetPin level s) := by
  unfold Machine.setResetPin
  split
  · exact h.quiet
  · exact inv_resetRegisters (s := { s.quiet with rstN := level }) h.legal nil_mem_eventLists

/-! ### The two counts -/

/-- What the invariant says of `HOLD` and `PULSE` (10_state.md R33, R34; 43_buzzer.md R223). -/
structure CountsInRange (s : State) : Prop where
  absentPulse : s.cfg.buzzer = false → s.pulse = 0
  pulseBound : s.pulse = 0 ∨ s.pulse < s.cfg.bzCycleEnd
  holdWidth : s.hold < 2 ^ s.cfg.holdW
  pulseWidth : s.pulse < 2 ^ s.cfg.pulseW

theorem Inv.counts {s : State} (h : Inv s) : CountsInRange s :=
  ⟨h.absentPulse, h.pulseBound, h.holdWidth, h.pulseWidth⟩

/-- Only the configuration and the two counts matter. -/
theorem CountsInRange.congr {s t : State} (h : CountsInRange s) (hcfg : t.cfg = s.cfg) (hhold : t.hold = s.hold)
    (hpulse : t.pulse = s.pulse) : CountsInRange t := by
  constructor <;> rw [hcfg]
  · rw [hpulse]; exact h.absentPulse
  · rw [hpulse]; exact h.pulseBound
  · rw [hhold]; exact h.holdWidth
  · rw [hpulse]; exact h.pulseWidth

/-- A pulse count that is cleared is in range whatever it was. -/
theorem CountsInRange.ofClearPulse {s : State} (hpulse : s.pulse = 0) (hhold : s.hold < 2 ^ s.cfg.holdW) : CountsInRange s :=
  ⟨fun _ => hpulse, .inl hpulse, hhold, hpulse ▸ Nat.two_pow_pos _⟩

/-- A buzzer invocation counts within the width and clears the count at the end of its cycle (43_buzzer.md R221, R223). -/
theorem CountsInRange.buzzerStep {s : State} (h : CountsInRange s) (hb : s.cfg.buzzer = true) (m : Bool) :
    CountsInRange (buzzerStep m s) := by
  by_cases hend : s.cfg.bzCycleEnd ≤ increment s.cfg.pulseW s.pulse
  · refine .ofClearPulse ?_ h.holdWidth
    rw [buzzerStep_pulse, if_pos hend]
  · have hpulse : (Machine.buzzerStep m s).pulse = increment s.cfg.pulseW s.pulse := by rw [buzzerStep_pulse, if_neg hend]
    exact
      { absentPulse := fun habsent => absurd (hb.symm.trans habsent) nofun
        pulseBound := .inr (hpulse ▸ Nat.not_le.1 hend)
        holdWidth := h.holdWidth
        pulseWidth := hpulse ▸ increment_lt _ _ }

theorem CountsInRange.relayInvoke {s : State} (h : CountsInRange s) : CountsInRange (relayInvoke s) := by
  cases he : s.enabled with
  | true =>
    rw [relayInvoke_eq_nextActive he]
    have hhold : (if outOfBand s then increment s.cfg.holdW s.hold else 0) < 2 ^ s.cfg.holdW := by
      split
      · exact increment_lt _ _
      · exact Nat.two_pow_pos _
    cases hb : s.cfg.buzzer with
    | true => exact .ofClearPulse rfl hhold
    | false => exact .ofClearPulse (h.absentPulse hb) hhold
  | false =>
    cases hb : s.cfg.buzzer with
    | true =>
      rw [relayInvoke_of_disabled_buzzer he hb]
      exact h.buzzerStep hb _
    | false =>
      rw [relayInvoke_of_disabled_basic he hb]
      exact h.congr rfl rfl rfl

theorem CountsInRange.fanOutStep {s : State} (h : CountsInRange s) : CountsInRange (fanOutStep s) := by
  rcases fanOutStep_cases s with ⟨-, e⟩ | ⟨-, e⟩ | ⟨-, e⟩ | ⟨-, e⟩ <;> rw [e]
  · exact h
  · exact h.congr rfl rfl rfl
  · exact h.congr rfl rfl rfl
  · exact h.relayInvoke

theorem CountsInRange.tickOperation {s : State} (h : CountsInRange s) : CountsInRange (tickOperation s) := by
  rw [tickOperation_eq]
  refine fanOutStep ?_
  split
  · exact h.congr (fermentationStep_cfg _) (fermentationStep_hold _) (fermentationStep_pulse _)
  · exact h.congr rfl rfl rfl

/-! ### The timer's minutes -/

/-- FT_TICK leaves minutes of at most 59: it takes one, borrows 59, or does nothing (10_state.md R30). -/
theorem ftMinutes_ftTick_le {ft : TimerWord} (h : ftMinutes ft ≤ 59) (phase : PhaseWord) (sec : Nat) :
    ftMinutes (ftTick ft phase sec).1 ≤ 59 := by
  by_cases hact : ft ≠ 0 ∧ sec = phase.toNat
  case neg => rwa [ftTick_of_not hact]
  rw [ftTick_of hact]
  rcases Nat.eq_zero_or_pos (ftMinutes ft) with hmin | hmin
  · exact (decrementTimer_of_borrow hact.1 hmin).2.2.le
  · have hdec := (decrementTimer_of_minutes hmin).2
    dsimp only
    omega

/-! ### Commands and steps -/

/-- A TICK keeps the invariant: each register by what TICK writes to it. -/
theorem Inv.tickOperation {s : State} (h : Inv s) (hrst : s.rstN = true) (hev : s.events = []) : Inv (tickOperation s) := by
  obtain ⟨hpos, htps⟩ := (s.cfg.legal_iff).1 h.legal
  obtain ⟨habsent, hbound, hhold, hpulse⟩ := h.counts.tickOperation
  exact
    { legal := by rw [tickOperation_cfg]; exact h.legal
      uptime := by
        rw [tickOperation_up, tickOperation_cfg]
        exact uptimeInRange_advance hpos htps h.uptime
      minutes := by
        rw [tickOperation_ft]
        split
        · exact ftMinutes_ftTick_le h.minutes _ _
        · exact h.minutes
      phase := by rw [tickOperation_phase]; exact h.phase
      absentPulse := habsent
      pulseBound := hbound
      holdWidth := hhold
      pulseWidth := hpulse
      heldInReset := fun hlow => absurd (hrst.symm.trans ((tickOperation_rstN s).symm.trans hlow)) nofun
      events := tickOperation_events_mem hev }

/-- The seconds FT_START captures are in the range of the phase (10_state.md R29). -/
theorem toNat_capturedPhase (up : Word) : (BitVec.ofNat 6 (upSeconds up)).toNat = upSeconds up := by
  rw [BitVec.toNat_ofNat, Nat.mod_eq_of_lt (upSeconds_lt up)]

/-- Every effect of a command keeps the invariant. -/
theorem Inv.effectOf {s : State} (h : Inv s) (hrst : s.rstN = true) (hev : s.events = []) (i : Instr) : Inv (effectOf i s) := by
  have hheld {t : State} (ht : t.rstN = s.rstN) (hlow : t.rstN = false) : resetRegisters t = t :=
    absurd (hrst.symm.trans (ht.symm.trans hlow)) nofun
  cases i with
  | nop => exact h
  | tick => exact h.tickOperation hrst hev
  | clkReset => exact { h with uptime := uptimeInRange_zero ((s.cfg.legal_iff).1 h.legal).1, heldInReset := hheld rfl }
  | ftStart d =>
    have hsec : upSeconds s.up < 60 := h.uptime.2.1
    exact
      { h with
        minutes := (ftMinutes_startValue d).le
        phase := by rw [Machine.effectOf, startTimer_phase, toNat_capturedPhase]; omega
        heldInReset := hheld rfl }
  | ftStop => exact { h with minutes := (by decide : ftMinutes 0 ≤ 59), heldInReset := hheld rfl }
  | rlyEnable => exact { h with heldInReset := hheld rfl }
  | rlyDisable => exact { h with heldInReset := hheld rfl }

/-- Every command keeps the invariant; while `rst_n` is low it is dropped (70_reset_and_hazards.md R300). -/
theorem Inv.exec {i : Instr} {s t : State} (h : Inv s) (hexec : exec i s = .next t) : Inv t := by
  obtain ⟨-, rfl⟩ := (exec_next_iff i s t).1 hexec
  split
  case isTrue hrst => exact h.quiet.effectOf hrst (quiet_events s) i
  case isFalse => exact h.quiet

/-- Every step keeps the invariant, by what a step can have done. -/
theorem Inv.step {s t : State} (h : Inv s) (hstep : step s = .next t) : Inv t := by
  obtain ⟨-, ⟨-, rfl⟩ | ⟨a, rest, -, ⟨i, inbox, he⟩ | ⟨v, rfl⟩ | ⟨p, -, rfl⟩ | ⟨level, -, rfl⟩⟩⟩ := step_next_cases hstep
  · exact h.quiet
  · exact (h.withRecord s.ports inbox s.readData h.events).exec he
  · exact h.withRecord s.ports rest v nil_mem_eventLists
  · exact h.withRecord p rest none nil_mem_eventLists
  · exact (h.withRecord s.ports rest s.readData h.events).setResetPin level

/-! ### Runs -/

/-- What every step keeps, every run keeps. -/
theorem run_keeps {P : State → Prop} (hstep : ∀ s t, P s → step s = .next t → P t) {n : Nat} {s t : State} (hs : P s)
    (hrun : run n s = .next t) : P t := by
  induction n generalizing s with
  | zero =>
    obtain rfl := Host.Outcome.next.inj hrun
    exact hs
  | succ n ih =>
    cases hnext : step s with
    | next u =>
      rw [run_succ_of_next hnext] at hrun
      exact ih (hstep s u hs hnext) hrun
    | fault r => simp [run, hnext] at hrun
    | refused r => simp [run, hnext] at hrun

/-! ### The statements -/

/-- Settles O52. -/
theorem stepKeepsInvariant : Obligations.StepKeepsInvariant := by
  unfold Obligations.StepKeepsInvariant
  exact fun s t h hstep => h.step hstep

/-- Settles O51: after power-on every register holds its reset value. -/
theorem invariantHoldsAtPowerOn : Obligations.InvariantHoldsAtPowerOn := by
  unfold Obligations.InvariantHoldsAtPowerOn
  have hpowerOn (c : Params) (p : Ports) (hl : c.legal = true) : Inv (State.powerOn c p) :=
    inv_resetRegisters (s := State.powerOn c p) hl nil_mem_eventLists
  exact ⟨hpowerOn, hpowerOn (hardwareParams false 0) Ports.zero rfl⟩

/-- Settles O54, by what a step can have done: the input providers drive the ports, the pin sets `rst_n`, and a command writes neither. -/
theorem stepNeverWritesConfigurationOrPorts : Obligations.StepNeverWritesConfigurationOrPorts := by
  unfold Obligations.StepNeverWritesConfigurationOrPorts
  intro s t hstep
  obtain ⟨-, ⟨-, rfl⟩ | ⟨a, rest, hin, ⟨i, inbox, he⟩ | ⟨v, rfl⟩ | ⟨p, rfl, rfl⟩ | ⟨level, rfl, rfl⟩⟩⟩ := step_next_cases hstep
  · exact ⟨rfl, .inl rfl, .inl rfl⟩
  · obtain ⟨-, rfl⟩ := (exec_next_iff i _ t).1 he
    split <;> simp
  · exact ⟨rfl, .inl rfl, .inl rfl⟩
  · exact ⟨rfl, .inr ⟨rest, hin⟩, .inl rfl⟩
  · rw [setResetPin_rstN]
    refine ⟨?_, .inl ?_, .inr ⟨rest, hin⟩⟩
    all_goals unfold setResetPin; split <;> rfl

/-- Settles O53: the state after power-on has the invariant and the configuration `c`, and every step keeps both. -/
theorem reachableRegistersStayInRange : Obligations.ReachableRegistersStayInRange := by
  unfold Obligations.ReachableRegistersStayInRange
  intro c p arrivals n t hl hrun
  have hkeeps (s u : State) (hs : Inv s ∧ s.cfg = c) (hstep : step s = .next u) : Inv u ∧ u.cfg = c :=
    ⟨hs.1.step hstep, (stepNeverWritesConfigurationOrPorts s u hstep).1.trans hs.2⟩
  have hstart : Inv { State.powerOn c p with inbox := arrivals } :=
    (invariantHoldsAtPowerOn.1 c p hl).withRecord p arrivals none nil_mem_eventLists
  obtain ⟨h, rfl⟩ := run_keeps hkeeps ⟨hstart, rfl⟩ hrun
  exact ⟨h.uptime, h.minutes, h.phase, h.holdWidth, h.pulseWidth⟩

end Sys2Proof.Machine
end

section
/-! The expiry TICK and the fan-out table of this hardware (44_dispatcher.md R244, R246): the ticks field after a carry, the one strobe of
an expiry, and which ticks values the table selects. -/

namespace Sys2Proof.Machine

/-! ### The ticks field, in range or not -/

/-- An add of whole seconds leaves the ticks field. -/
theorem upTicks_add_of_dvd (u : Word) {x : Word} (h : x.toNat % 512 = 0) : upTicks (u + x) = upTicks u := by
  rw [upTicks_eq, upTicks_eq, BitVec.toNat_add]
  omega

/-- The carry into seconds leaves the ticks field on every word: each of its adds is of whole seconds (40_clock.md R126). -/
theorem upTicks_carrySeconds (u : Word) : upTicks (carrySeconds u) = upTicks u := by
  rw [carrySeconds_eq_adds]
  have hsecond (v : Word) : upTicks (v + 0x200#32) = upTicks v := upTicks_add_of_dvd v (by decide)
  have hminute (v : Word) : upTicks (v + 0x800#32) = upTicks v := upTicks_add_of_dvd v (by decide)
  have hhour (v : Word) : upTicks (v + 0x20000#32) = upTicks v := upTicks_add_of_dvd v (by decide)
  have hday (v : Word) : upTicks (v + 0x1000000#32) = upTicks v := upTicks_add_of_dvd v (by decide)
  split_ifs <;> simp only [hsecond, hminute, hhour, hday]

theorem upTicks_setTicks (up : Word) (x : Nat) : upTicks (setField up 0 9 x) = x % 512 := by
  rw [setTicks_eq_packUptime]
  exact (fields_packUptime (Nat.mod_lt _ (by decide)) (upSeconds_lt up) (upMinutes_lt up) (upHours_lt up) (upDays_lt up)).1

/-- The ticks count to `TPS` and clear there, on every word (40_clock.md R120, R121). -/
theorem upTicks_advance {tps : Nat} (htps : tps ≤ 511) (up : Word) :
    upTicks (advance tps up).1 = if (advance tps up).2 = true then 0 else upTicks up + 1 := by
  rcases Nat.lt_or_ge (upTicks up + 1) tps with h | h
  · rw [advance_of_lt h, upTicks_setTicks]
    exact Nat.mod_eq_of_lt (by omega)
  · rw [advance_of_le h, upTicks_carrySeconds, upTicks_setTicks]
    rfl

/-! ### Expiry -/

/-- An expiry TICK is a carry tick whose FT_TICK leaves 0 (41_fermentation_timer.md R156). -/
theorem nextExpires_iff (s : State) :
    nextExpires s = true ↔ nextCarries s = true ∧ (ftTick s.ft s.phase (upSeconds (nextUp s))).2 = true :=
  Bool.and_eq_true_iff

/-- What an expiry TICK hands to its fan-out (44_dispatcher.md R244). -/
theorem beforeFanOut_of_expires {s : State} (h : nextExpires s = true) :
    beforeFanOut s = { s with up := nextUp s, ft := 0, enabled := false, events := [.fermComplete], readData := none } := by
  obtain ⟨hcarry, hexpired⟩ := (nextExpires_iff s).1 h
  obtain ⟨-, -, hzero⟩ := (ftTick_expires_iff _ _ _).1 hexpired
  simp [beforeFanOut, h, hcarry, hzero]

/-- A TICK that is no expiry hands an unchanged `ENABLED` and no strobe to its fan-out. -/
theorem beforeFanOut_of_not_expires {s : State} (h : nextExpires s = false) :
    (beforeFanOut s).enabled = s.enabled ∧ (beforeFanOut s).events = [] := by
  simp [beforeFanOut, h]

/-- A fan-out that does not select RELAY leaves the relay state (44_dispatcher.md R247 to R249). -/
theorem runTask_keeps_relay {k : Task} (h : k ≠ .relay) (s : State) :
    (runTask k s).active = s.active ∧ (runTask k s).hold = s.hold ∧ (runTask k s).pulse = s.pulse ∧ (runTask k s).out = s.out := by
  cases k with
  | none | ui | sensor => exact ⟨rfl, rfl, rfl, rfl⟩
  | relay => exact absurd rfl h

/-- The fan-out adds to the strobes at the end, and never `ev_ferm_complete`. -/
theorem runTask_events (k : Task) (s : State) : ∃ added, (runTask k s).events = s.events ++ added ∧ .fermComplete ∉ added := by
  cases k with
  | none => exact ⟨[], (List.append_nil _).symm, by decide⟩
  | ui => exact ⟨[.uiRefresh], rfl, by decide⟩
  | sensor => exact ⟨[.sensorStart], rfl, by decide⟩
  | relay => exact ⟨[], (relayInvoke_events s).trans (List.append_nil _).symm, by decide⟩

/-! ### The table of this hardware -/

/-- A mask of the low bits compares the remainder. -/
theorem ofNat_and_mask_eq_iff {t w r : Nat} (ht : t < 512) (hw : w ≤ 9) (hr : r < 512) :
    BitVec.ofNat 9 t &&& BitVec.ofNat 9 (2 ^ w - 1) = BitVec.ofNat 9 r ↔ t % 2 ^ w = r := by
  have hfield := field_eq_iff_shift_mask (BitVec.ofNat 9 t) 0 (x := r) hw hr
  rw [BitVec.ushiftRight_zero, field, BitVec.toNat_ofNat, Nat.mod_eq_of_lt ht, pow_zero, Nat.div_one] at hfield
  exact hfield.symm

/-- The table of R246 by remainders, in its order. -/
theorem fanOut_hardware {t : Nat} (ht : t < 512) :
    fanOut hardwareFanout (BitVec.ofNat 9 t) =
      if t % 16 = 1 then .ui else if t % 256 = 2 then .sensor else if t % 256 = 3 then .relay else .none := by
  have hui : BitVec.ofNat 9 t &&& 0x00F = 0x001 ↔ t % 16 = 1 := ofNat_and_mask_eq_iff (w := 4) ht (by decide) (by decide)
  have hsensor : BitVec.ofNat 9 t &&& 0x0FF = 0x002 ↔ t % 256 = 2 :=
    ofNat_and_mask_eq_iff (w := 8) ht (by decide) (by decide)
  have hrelay : BitVec.ofNat 9 t &&& 0x0FF = 0x003 ↔ t % 256 = 3 :=
    ofNat_and_mask_eq_iff (w := 8) ht (by decide) (by decide)
  simp only [hardwareFanout, fanOut, hui, hsensor, hrelay]

/-- The ticks values of each task below 500: 256 fits in once (44_dispatcher.md, derived schedule). -/
theorem fanOut_hardware_iff {t : Nat} (ht : t < 500) :
    (fanOut hardwareFanout (BitVec.ofNat 9 t) = .ui ↔ t % 16 = 1) ∧
      (fanOut hardwareFanout (BitVec.ofNat 9 t) = .sensor ↔ t = 2 ∨ t = 258) ∧
      (fanOut hardwareFanout (BitVec.ofNat 9 t) = .relay ↔ t = 3 ∨ t = 259) := by
  rw [fanOut_hardware (by omega)]
  split_ifs <;> simp only [true_iff, false_iff] <;> omega

/-- Under the table of this hardware a carry tick selects nothing: its ticks field is 0. -/
theorem nextTask_of_carries {s : State} (htps : s.cfg.tps ≤ 511) (hfan : s.cfg.fanout = hardwareFanout)
    (h : nextCarries s = true) : nextTask s = .none := by
  have hzero : upTicks (nextUp s) = 0 := (upTicks_advance htps s.up).trans (if_pos h)
  rw [nextTask, hzero, hfan]
  rfl

/-! ### The statements -/

/-- Settles O16: an expiry TICK runs its task on `beforeFanOut_of_expires`, with the controller disabled; any other finds no strobe fired.
-/
theorem expiryFiresOnceAndDisables : Obligations.ExpiryFiresOnceAndDisables := by
  unfold Obligations.ExpiryFiresOnceAndDisables
  intro s hs
  have hexec := exec_tick_eq_runTask hs
  refine ⟨fun hexp => ?_, fun hexp => ?_⟩
  · have hbefore := beforeFanOut_of_expires hexp
    rw [hbefore] at hexec
    obtain ⟨added, hevents, hnone⟩ := runTask_events (nextTask s)
      { s with up := nextUp s, ft := 0, enabled := false, events := [.fermComplete], readData := none }
    obtain ⟨hactive, hhold⟩ := exec_keeps_decision hexec fun _ => .inr hexp
    refine ⟨_, hexec, runTask_ft _ _, runTask_enabled _ _, ?_, ?_, hactive, hhold, fun htask => ?_, fun hfan => ?_⟩
    · rw [hevents]
      rfl
    · rw [hevents, List.count_append, List.count_eq_zero_of_not_mem hnone]
      rfl
    · obtain ⟨-, -, hpulse, hout⟩ := runTask_keeps_relay htask
        { s with up := nextUp s, ft := 0, enabled := false, events := [.fermComplete], readData := none }
      exact ⟨hout, hpulse⟩
    · obtain ⟨hcarry, -⟩ := (nextExpires_iff s).1 hexp
      rw [nextTask_of_carries ((s.cfg.legal_iff).1 hs.1).2 hfan hcarry]
      rfl
  · obtain ⟨henabled, hnil⟩ := beforeFanOut_of_not_expires hexp
    obtain ⟨added, hevents, hnone⟩ := runTask_events (nextTask s) (beforeFanOut s)
    refine ⟨_, hexec, (runTask_enabled _ _).trans henabled, ?_⟩
    rwa [hevents, hnil, List.nil_append]

/-- Settles O60: the new ticks value by `upTicks_advance`, its task by `fanOut_hardware_iff`, and the strobes of each task by O15. -/
theorem defaultTableSelectsStatedTicks : Obligations.DefaultTableSelectsStatedTicks := by
  unfold Obligations.DefaultTableSelectsStatedTicks
  intro s hs htps hfan hticks
  have hexec := exec_tick_eq_runTask hs
  obtain ⟨hui, hsensor, -⟩ := tickRunsAtMostOneTask.1 s _ hs hexec
  have hup : (runTask (nextTask s) (beforeFanOut s)).up = nextUp s := runTask_up _ _
  have hcount : upTicks (nextUp s) = (upTicks s.up + 1) % 500 := by
    have hcarry := advance_carries_iff s.cfg.tps s.up
    rw [nextUp, upTicks_advance (by omega)]
    split
    case isTrue h => have hlast := hcarry.1 h; omega
    case isFalse h => have hbelow := mt hcarry.2 h; omega
  have hlt : upTicks (nextUp s) < 500 := hcount ▸ Nat.mod_lt _ (by decide)
  have htask : nextTask s = fanOut hardwareFanout (BitVec.ofNat 9 (upTicks (nextUp s))) := by rw [nextTask, hfan]
  obtain ⟨huiTicks, hsensorTicks, hrelayTicks⟩ := fanOut_hardware_iff hlt
  rw [← htask] at huiTicks hsensorTicks hrelayTicks
  refine ⟨_, hexec, ?_⟩
  rw [hup]
  exact ⟨hcount, hui.trans huiTicks, hsensor.trans hsensorTicks, hrelayTicks⟩

end Sys2Proof.Machine
end

section
/-! A countdown over many TICKs (41_fermentation_timer.md, derived behaviour; 70_reset_and_hazards.md, a clock reset): the pulses of
`tick_in` as one iterated state function, the position of the uptime in its minute, and the minutes a number of TICKs takes off the timer.
-/

namespace Sys2Proof.Machine

/-! ### The minutes of the timer -/

/-- A matching FT_TICK takes one minute off a timer that is not over (41_fermentation_timer.md R154), and leaves one that is over. -/
theorem remainingMinutes_ftTick_match {ft : TimerWord} (h : ftMinutes ft ≤ 59) (phase : PhaseWord) :
    remainingMinutes (ftTick ft phase phase.toNat).1 = remainingMinutes ft - 1 := by
  by_cases hzero : ft = 0
  · rw [ftTick_of_not fun hact => hact.1 hzero, hzero]
    decide
  rw [ftTick_of ⟨hzero, rfl⟩]
  unfold remainingMinutes
  dsimp only
  rcases Nat.eq_zero_or_pos (ftMinutes ft) with hmin | hmin
  · obtain ⟨hhour, ehours, eminutes⟩ := decrementTimer_of_borrow hzero hmin
    omega
  · obtain ⟨ehours, eminutes⟩ := decrementTimer_of_minutes hmin
    omega

/-- The timer is over when no minutes remain. -/
theorem remainingMinutes_eq_zero_iff (ft : TimerWord) : remainingMinutes ft = 0 ↔ ft = 0 := by
  rw [timer_eq_zero_iff, toNat_timer, remainingMinutes]
  omega

/-- With minutes of at most 59 the number of minutes says the timer's value. -/
theorem eq_of_remainingMinutes_eq {ft ft' : TimerWord} (h : ftMinutes ft ≤ 59) (h' : ftMinutes ft' ≤ 59)
    (heq : remainingMinutes ft = remainingMinutes ft') : ft = ft' := by
  apply BitVec.eq_of_toNat_eq
  rw [toNat_timer, toNat_timer]
  unfold remainingMinutes at heq
  omega

theorem remainingMinutes_startValue {d : Nat} (hpos : 1 ≤ d) (hd : d ≤ 1024) : remainingMinutes (startValue d) = 60 * d - 1 := by
  rw [remainingMinutes, ftHours_startValue, ftMinutes_startValue]
  omega

/-- `n` matching FT_TICKs take `n` minutes off, down to none. -/
theorem remainingMinutes_iterate_ftTick {ft : TimerWord} (h : ftMinutes ft ≤ 59) (phase : PhaseWord) (n : Nat) :
    ftMinutes ((fun f => (ftTick f phase phase.toNat).1)^[n] ft) ≤ 59 ∧
      remainingMinutes ((fun f => (ftTick f phase phase.toNat).1)^[n] ft) = remainingMinutes ft - n := by
  induction n with
  | zero => exact ⟨h, rfl⟩
  | succ n ih =>
    obtain ⟨hmin, hrem⟩ := ih
    rw [Function.iterate_succ_apply']
    refine ⟨ftMinutes_ftTick_le hmin _ _, ?_⟩
    rw [remainingMinutes_ftTick_match hmin, hrem]
    omega

/-! ### A stopped timer under the other commands -/

/-- Without a strobe and with the timer at 0 nothing has started or completed. -/
theorem stopped_of_eq {t : State} (hft : t.ft = 0) (hev : t.events = []) : t.ft = 0 ∧ .fermComplete ∉ t.events :=
  ⟨hft, by rw [hev]; exact List.not_mem_nil⟩

/-! ### Pulses of `tick_in` -/

/-- The state one performed TICK leaves. -/
def ticked (s : State) : State := tickOperation s.quiet

theorem exec_tick_eq_ticked {s : State} (hs : Accepting s) : exec .tick s = .next (ticked s) := exec_tick_quiet hs

theorem ticked_accepting {s : State} (hs : Accepting s) : Accepting (ticked s) := by
  unfold ticked
  rw [Accepting, tickOperation_cfg, tickOperation_rstN]
  exact hs

theorem ticked_phase (s : State) : (ticked s).phase = s.phase := tickOperation_phase s.quiet
theorem ticked_cfg (s : State) : (ticked s).cfg = s.cfg := tickOperation_cfg s.quiet
theorem ticked_rstN (s : State) : (ticked s).rstN = s.rstN := tickOperation_rstN s.quiet
theorem ticked_inbox (s : State) : (ticked s).inbox = s.inbox := tickOperation_inbox s.quiet
theorem ticked_up (s : State) : (ticked s).up = nextUp s := tickOperation_up s.quiet
theorem ticked_ft (s : State) :
    (ticked s).ft = if nextCarries s then (ftTick s.ft s.phase (upSeconds (nextUp s))).1 else s.ft :=
  tickOperation_ft s.quiet

theorem Inv.ticked {s : State} (h : Inv s) (hrst : s.rstN = true) : Inv (ticked s) :=
  h.exec (exec_tick_eq_ticked ⟨h.legal, hrst⟩)

/-- A TICK that ends a running countdown is its expiry TICK: it disables the controller and fires `ev_ferm_complete`
(41_fermentation_timer.md R156). -/
theorem ticked_of_ends {s : State} (hs : Accepting s) (hrunning : s.ft ≠ 0) (hend : (ticked s).ft = 0) :
    (ticked s).enabled = false ∧ .fermComplete ∈ (ticked s).events := by
  have hexpires : nextExpires s = true := by
    rw [ticked_ft] at hend
    split at hend
    case isFalse => exact absurd hend hrunning
    case isTrue hcarry =>
      have hact : s.ft ≠ 0 ∧ upSeconds (nextUp s) = s.phase.toNat := by
        by_contra hidle
        rw [ftTick_of_not hidle] at hend
        exact hrunning hend
      exact (nextExpires_iff s).2 ⟨hcarry, (ftTick_expires_iff _ _ _).2 ⟨hact.1, hact.2, hend⟩⟩
  obtain ⟨t, hexec, -, hdisabled, hfirst, -⟩ := (expiryFiresOnceAndDisables s hs).1 hexpires
  obtain rfl : ticked s = t := Host.Outcome.next.inj ((exec_tick_eq_ticked hs).symm.trans hexec)
  exact ⟨hdisabled, List.mem_of_head? hfirst⟩

/-- `n` pulses of `tick_in` are `n` TICKs (30_encoding.md R102). -/
theorem runTicks_eq_iterate {s : State} (hs : Accepting s) (n : Nat) : runTicks n s = .next (ticked^[n] s) := by
  induction n generalizing s with
  | zero => rfl
  | succ n ih =>
    have hpulse := (step_tickIn (List.replicate n .tickIn ++ s.inbox) hs.1).trans
      (exec_withInbox .tick _ (exec_tick_eq_ticked hs))
    calc
      _ = run n { ticked s with inbox := List.replicate n .tickIn ++ s.inbox } := run_succ_of_next hpulse
      _ = runTicks n (ticked s) := by rw [runTicks, withTicks, ticked_inbox]
      _ = .next (ticked^[n + 1] s) := ih (ticked_accepting hs)

/-! ### The position of the uptime in its minute -/

/-- The ticks since the uptime entered its present minute. -/
def ticksIntoMinute (tps : Nat) (up : Word) : Nat := upSeconds up * tps + upTicks up

/-- A TICK moves the position by one, and starts it again after 60 seconds (40_clock.md R122). -/
theorem ticksIntoMinute_advance {tps : Nat} {up : Word} (hpos : 1 ≤ tps) (htps : tps ≤ 511) (h : UptimeInRange tps up) :
    ticksIntoMinute tps (advance tps up).1 = (ticksIntoMinute tps up + 1) % (60 * tps) := by
  obtain ⟨eticks, eseconds, -⟩ := advanceCarriesFieldByField tps up hpos htps h
  obtain ⟨hticks, hseconds, -⟩ := h
  by_cases hcarry : upTicks up + 1 = tps
  · have hticks' : upTicks (advance tps up).1 = 0 := by rw [eticks, if_pos hcarry]
    have hseconds' : upSeconds (advance tps up).1 = (upSeconds up + 1) % 60 := by
      rw [eseconds]
      split_ifs <;> omega
    have hfull : upSeconds up * tps + upTicks up + 1 = (upSeconds up + 1) * tps := by
      rw [Nat.add_mul]
      omega
    rw [ticksIntoMinute, ticksIntoMinute, hticks', hseconds', hfull, Nat.mul_mod_mul_right, Nat.add_zero]
  · have hticks' : upTicks (advance tps up).1 = upTicks up + 1 := by rw [eticks, if_neg hcarry]
    have hseconds' : upSeconds (advance tps up).1 = upSeconds up := by
      rw [eseconds, if_neg fun hminute => hcarry hminute.1, if_neg hcarry]
    have hbound : (upSeconds up + 1) * tps ≤ 60 * tps := Nat.mul_le_mul_right tps hseconds
    rw [Nat.add_mul] at hbound
    rw [ticksIntoMinute, ticksIntoMinute, hticks', hseconds', Nat.mod_eq_of_lt (by omega), Nat.add_assoc]

/-- Ticks in range put the position at the start of a second exactly when they are 0 in that second. -/
theorem ticksIntoMinute_eq_mul_iff {tps : Nat} {up : Word} (h : upTicks up < tps) (p : Nat) :
    ticksIntoMinute tps up = p * tps ↔ upTicks up = 0 ∧ upSeconds up = p := by
  have hdiv : ticksIntoMinute tps up / tps = upSeconds up := by
    rw [ticksIntoMinute, Nat.mul_comm, Nat.mul_add_div (by omega), Nat.div_eq_of_lt h, Nat.add_zero]
  constructor
  · intro heq
    rw [heq, Nat.mul_div_cancel _ (by omega)] at hdiv
    subst hdiv
    unfold ticksIntoMinute at heq
    exact ⟨by omega, rfl⟩
  · rintro ⟨hticks, rfl⟩
    rw [ticksIntoMinute, hticks, Nat.add_zero]

/-! ### The countdown -/

/-- A TICK takes a minute off the timer when it enters the start of the second `PHASE`, and no minute otherwise
(41_fermentation_timer.md R154; 44_dispatcher.md R243). -/
theorem remainingMinutes_ticked {s : State} (h : Inv s) :
    remainingMinutes (ticked s).ft =
      remainingMinutes s.ft - if ticksIntoMinute s.cfg.tps (nextUp s) = s.phase.toNat * s.cfg.tps then 1 else 0 := by
  obtain ⟨hpos, htps⟩ := (s.cfg.legal_iff).1 h.legal
  obtain ⟨hticks, -⟩ := uptimeInRange_advance hpos htps h.uptime
  have hzero : upTicks (nextUp s) = 0 ↔ nextCarries s = true := by
    have hcount : upTicks (nextUp s) = if nextCarries s = true then 0 else upTicks s.up + 1 := upTicks_advance htps s.up
    rw [hcount]
    split <;> simp [*]
  have hmatch : ticksIntoMinute s.cfg.tps (nextUp s) = s.phase.toNat * s.cfg.tps ↔
      nextCarries s = true ∧ upSeconds (nextUp s) = s.phase.toNat := by
    rw [← hzero]
    exact ticksIntoMinute_eq_mul_iff hticks _
  rw [ticked_ft]
  by_cases hcarry : nextCarries s = true
  case neg => rw [if_neg hcarry, if_neg fun heq => hcarry (hmatch.1 heq).1, Nat.sub_zero]
  rw [if_pos hcarry]
  by_cases hsec : upSeconds (nextUp s) = s.phase.toNat
  · rw [if_pos (hmatch.2 ⟨hcarry, hsec⟩), hsec, remainingMinutes_ftTick_match h.minutes]
  · rw [if_neg fun heq => hsec (hmatch.1 heq).2, ftTick_of_not fun hact => hsec hact.2, Nat.sub_zero]

/-- The position `c` ticks past the start of second `p` is that start exactly when whole minutes have passed. -/
theorem mod_minute_eq_iff {tps p : Nat} (hpos : 1 ≤ tps) (hp : p ≤ 59) (c : Nat) :
    (p * tps + c) % (60 * tps) = p * tps ↔ 60 * tps ∣ c := by
  have hlt : p * tps < 60 * tps := Nat.mul_lt_mul_of_pos_right (by omega) hpos
  have hmod : p * tps % (60 * tps) = p * tps := Nat.mod_eq_of_lt hlt
  calc (p * tps + c) % (60 * tps) = p * tps
    _ ↔ p * tps ≡ p * tps + c [MOD 60 * tps] := by rw [Nat.ModEq, hmod, eq_comm]
    _ ↔ 60 * tps ∣ p * tps + c - p * tps := Nat.modEq_iff_dvd' (Nat.le_add_right _ _)
    _ ↔ 60 * tps ∣ c := by rw [Nat.add_sub_cancel_left]

/-- The ticks from the uptime 0 to the next start of second `PHASE`: a whole minute when `PHASE` is 0 (70_reset_and_hazards.md, a clock
reset). -/
def ticksToPhase (tps : Nat) (phase : PhaseWord) : Nat := (if phase = 0 then 60 else phase.toNat) * tps

/-- The next start of second `PHASE` lies within the next minute, and the last one a minute before it. -/
theorem ticksToPhase_spec {tps : Nat} {phase : PhaseWord} (hpos : 1 ≤ tps) (hphase : phase.toNat ≤ 59) :
    0 < ticksToPhase tps phase ∧ ticksToPhase tps phase ≤ 60 * tps ∧
      (phase.toNat * tps + (60 * tps - ticksToPhase tps phase)) % (60 * tps) = 0 := by
  by_cases hzero : phase = 0
  · subst hzero
    have hminute : ticksToPhase tps 0 = 60 * tps := rfl
    rw [hminute, Nat.sub_self]
    exact ⟨by omega, le_rfl, by simp⟩
  · have hn : ticksToPhase tps phase = phase.toNat * tps := by rw [ticksToPhase, if_neg hzero]
    have hlt : phase.toNat * tps ≤ 60 * tps := Nat.mul_le_mul_right tps (by omega)
    have hne : 0 < phase.toNat := Nat.pos_of_ne_zero fun h => hzero (BitVec.eq_of_toNat_eq h)
    rw [hn, Nat.add_sub_cancel' hlt, Nat.mod_self]
    exact ⟨Nat.mul_pos hne hpos, hlt, rfl⟩

/-- From `c` ticks past the start of the last second `PHASE`, `n` TICKs keep the invariant and what a countdown reads, and take off the
minutes that `c + n` ticks hold. -/
theorem countdown_iterate {s : State} (h : Inv s) (hrst : s.rstN = true) {c : Nat}
    (hstart : ticksIntoMinute s.cfg.tps s.up = (s.phase.toNat * s.cfg.tps + c) % (60 * s.cfg.tps)) (hc : c < 60 * s.cfg.tps) (n : Nat) :
    (Inv (ticked^[n] s) ∧ (ticked^[n] s).rstN = true ∧ (ticked^[n] s).cfg = s.cfg ∧ (ticked^[n] s).phase = s.phase) ∧
      ticksIntoMinute s.cfg.tps (ticked^[n] s).up = (s.phase.toNat * s.cfg.tps + (c + n)) % (60 * s.cfg.tps) ∧
      remainingMinutes (ticked^[n] s).ft = remainingMinutes s.ft - (c + n) / (60 * s.cfg.tps) := by
  obtain ⟨hpos, htps⟩ := (s.cfg.legal_iff).1 h.legal
  induction n with
  | zero => exact ⟨⟨h, hrst, rfl, rfl⟩, hstart, by rw [Nat.add_zero, Nat.div_eq_of_lt hc]; rfl⟩
  | succ n ih =>
    rw [Function.iterate_succ_apply']
    generalize ticked^[n] s = t at ih
    obtain ⟨⟨hinv, hhigh, hcfg, hphase⟩, hposition, hremaining⟩ := ih
    have hnext : ticksIntoMinute s.cfg.tps (nextUp t) = (s.phase.toNat * s.cfg.tps + (c + (n + 1))) % (60 * s.cfg.tps) := by
      have hrange := hinv.uptime
      rw [hcfg] at hrange
      rw [nextUp, hcfg, ticksIntoMinute_advance hpos htps hrange, hposition, Nat.mod_add_mod]
      rfl
    refine ⟨⟨hinv.ticked hhigh, (ticked_rstN t).trans hhigh, (ticked_cfg t).trans hcfg, (ticked_phase t).trans hphase⟩, ?_, ?_⟩
    · rw [ticked_up, hnext]
    · rw [remainingMinutes_ticked hinv, hcfg, hphase, hnext, hremaining, ← Nat.add_assoc c n 1, Nat.succ_div, Nat.sub_sub]
      exact congrArg (fun k => remainingMinutes s.ft - (_ + k)) (if_congr (mod_minute_eq_iff hpos h.phase _) rfl rfl)

/-- After FT_START, with the ticks field at `k`, the timer has run `k` ticks of its first minute: `m` TICKs later `(k + m) / (60 TPS)` of
its `60 d - 1` minutes are off (41_fermentation_timer.md, derived behaviour). -/
theorem countdown_after_ftStart {s : State} (h : Inv s) (hrst : s.rstN = true) {d : Nat} (hd : 1 ≤ d) (hd' : d ≤ 1024) (m : Nat) :
    Accepting (ticked^[m] (startTimer d s.quiet)) ∧
      remainingMinutes (ticked^[m] (startTimer d s.quiet)).ft = 60 * d - 1 - (upTicks s.up + m) / (60 * s.cfg.tps) := by
  obtain ⟨hticks, hseconds, -⟩ := h.uptime
  have hbound : (upSeconds s.up + 1) * s.cfg.tps ≤ 60 * s.cfg.tps := Nat.mul_le_mul_right _ hseconds
  rw [Nat.add_mul] at hbound
  have hstart : ticksIntoMinute s.cfg.tps s.up =
      ((BitVec.ofNat 6 (upSeconds s.up)).toNat * s.cfg.tps + upTicks s.up) % (60 * s.cfg.tps) := by
    rw [toNat_capturedPhase, Nat.mod_eq_of_lt (by omega)]
    rfl
  have hinv : Inv (startTimer d s.quiet) := h.exec (exec_ftStart_accepting d ⟨h.legal, hrst⟩)
  have hlt : upTicks s.up < 60 * s.cfg.tps := by omega
  obtain ⟨⟨hinvm, hrstm, -⟩, -, hremaining⟩ := countdown_iterate hinv hrst hstart hlt m
  rw [startTimer_ft, remainingMinutes_startValue hd hd'] at hremaining
  exact ⟨⟨hinvm.legal, hrstm⟩, hremaining⟩

/-- After CLK_RESET the next minute comes off `ticksToPhase` ticks later (70_reset_and_hazards.md, a clock reset). -/
theorem countdown_after_clkReset {s : State} (h : Inv s) (hrst : s.rstN = true) (m : Nat) :
    Inv (ticked^[m] (clearUptime s.quiet)) ∧
      remainingMinutes (ticked^[m] (clearUptime s.quiet)).ft =
        remainingMinutes s.ft - (60 * s.cfg.tps - ticksToPhase s.cfg.tps s.phase + m) / (60 * s.cfg.tps) := by
  obtain ⟨hpos, -⟩ := (s.cfg.legal_iff).1 h.legal
  obtain ⟨hn, hfits, hmod⟩ := ticksToPhase_spec hpos h.phase
  have hstart : ticksIntoMinute s.cfg.tps 0 =
      (s.phase.toNat * s.cfg.tps + (60 * s.cfg.tps - ticksToPhase s.cfg.tps s.phase)) % (60 * s.cfg.tps) := by
    rw [hmod]
    exact Nat.zero_mul _
  have hclear : exec .clkReset s = .next (clearUptime s.quiet) := operate_accepting clearUptime ⟨h.legal, hrst⟩
  have hlt : 60 * s.cfg.tps - ticksToPhase s.cfg.tps s.phase < 60 * s.cfg.tps := by omega
  obtain ⟨⟨hinvm, -⟩, -, hremaining⟩ := countdown_iterate (h.exec hclear) hrst hstart hlt m
  exact ⟨hinvm, hremaining⟩

/-! ### The statements -/

/-- Settles O18: a TICK by the zero gate, FT_STOP by its effect, and the other commands write neither `FT` nor a strobe. -/
theorem stoppedTimerStaysStopped : Obligations.StoppedTimerStaysStopped := by
  unfold Obligations.StoppedTimerStaysStopped
  intro i s t hi hft hexec
  obtain ⟨-, rfl⟩ := (exec_next_iff i s t).1 hexec
  split
  · cases i with
    | tick => exact tickOperation_of_stopped (s := s.quiet) hft (quiet_events s)
    | ftStart d => exact absurd rfl (hi d)
    | ftStop => exact stopped_of_eq rfl rfl
    | nop | clkReset | rlyEnable | rlyDisable => exact stopped_of_eq hft rfl
  · exact stopped_of_eq hft rfl

/-- Settles O19: the minutes by `remainingMinutes_iterate_ftTick`; an FT_TICK on a running timer expires when it leaves none. -/
theorem countdownLengthInDecrements : Obligations.CountdownLengthInDecrements := by
  unfold Obligations.CountdownLengthInDecrements
  refine ⟨fun ft p n hmin hn => ?_, fun d hpos hd => remainingMinutes_startValue hpos hd⟩
  intro now
  obtain ⟨hnowMin, hnow⟩ : ftMinutes now ≤ 59 ∧ remainingMinutes now = remainingMinutes ft - n :=
    remainingMinutes_iterate_ftTick hmin p n
  have hafter := remainingMinutes_ftTick_match hnowMin p
  have hrunning : now ≠ 0 := mt (remainingMinutes_eq_zero_iff now).2 (by omega)
  refine ⟨hnow, by omega, ?_⟩
  rw [ftTick_expires_iff, ← remainingMinutes_eq_zero_iff (ftTick now p p.toNat).1, hafter]
  exact ⟨fun ⟨_, _, hzero⟩ => by omega, fun hlast => ⟨hrunning, rfl, by omega⟩⟩

/-- Settles O20: by `countdown_after_ftStart` all `60 d - 1` minutes are off after `n` TICKs and not before; the TICK that takes the last
one is the expiry TICK. -/
theorem timerExpiresAtComputedTick : Obligations.TimerExpiresAtComputedTick := by
  unfold Obligations.TimerExpiresAtComputedTick
  intro s s1 d hinv hrst hd hd' hexec n
  have haccepting : Accepting s := ⟨hinv.legal, hrst⟩
  obtain ⟨hpos, -⟩ := (s.cfg.legal_iff).1 hinv.legal
  have hticks : upTicks s.up < s.cfg.tps := hinv.uptime.1
  obtain rfl : startTimer d s.quiet = s1 := Host.Outcome.next.inj ((exec_ftStart_accepting d haccepting).symm.trans hexec)
  have hrun (m : Nat) := runTicks_eq_iterate (s := startTimer d s.quiet) haccepting m
  have hlast : upTicks s.up + n = (60 * d - 1) * (60 * s.cfg.tps) := by
    have hsplit : 60 * d - 1 = (60 * d - 2) + 1 := by omega
    rw [hsplit, Nat.add_mul]
    omega
  have hrunning (m : Nat) (hm : m < n) : (ticked^[m] (startTimer d s.quiet)).ft ≠ 0 := by
    have hfew : (upTicks s.up + m) / (60 * s.cfg.tps) < 60 * d - 1 :=
      Nat.div_lt_of_lt_mul (by rw [Nat.mul_comm, ← hlast]; omega)
    rw [ne_eq, ← remainingMinutes_eq_zero_iff, (countdown_after_ftStart hinv hrst hd hd' m).2]
    exact (Nat.sub_pos_of_lt hfew).ne'
  have hover : (ticked^[n] (startTimer d s.quiet)).ft = 0 := by
    rw [← remainingMinutes_eq_zero_iff, (countdown_after_ftStart hinv hrst hd hd' n).2, hlast,
      Nat.mul_div_cancel _ (by omega), Nat.sub_self]
  refine ⟨fun m hm => ⟨_, hrun m, hrunning m hm⟩, _, hrun n, hover, ?_⟩
  obtain ⟨k, hk⟩ : ∃ k, n = k + 1 := Nat.exists_eq_succ_of_ne_zero (by omega)
  rw [hk, Function.iterate_succ_apply'] at hover ⊢
  exact ticked_of_ends (countdown_after_ftStart hinv hrst hd hd' k).1 (hrunning k (by omega)) hover

/-- Settles O21: by `countdown_after_clkReset` no minute is off before `n` TICKs, and one is after them. -/
theorem clockResetMovesNextDecrement : Obligations.ClockResetMovesNextDecrement := by
  unfold Obligations.ClockResetMovesNextDecrement
  intro s s1 hinv hrst hrunning hexec n
  have haccepting : Accepting s := ⟨hinv.legal, hrst⟩
  obtain ⟨hpos, -⟩ := (s.cfg.legal_iff).1 hinv.legal
  obtain ⟨hn, hfits, -⟩ : 0 < n ∧ n ≤ 60 * s.cfg.tps ∧ _ := ticksToPhase_spec hpos hinv.phase
  have hclear : exec .clkReset s = .next (clearUptime s.quiet) := operate_accepting clearUptime haccepting
  obtain rfl : clearUptime s.quiet = s1 := Host.Outcome.next.inj (hclear.symm.trans hexec)
  have hrun (m : Nat) := runTicks_eq_iterate (s := clearUptime s.quiet) haccepting m
  have hcount (m : Nat) : Inv (ticked^[m] (clearUptime s.quiet)) ∧
      remainingMinutes (ticked^[m] (clearUptime s.quiet)).ft =
        remainingMinutes s.ft - (60 * s.cfg.tps - n + m) / (60 * s.cfg.tps) := countdown_after_clkReset hinv hrst m
  refine ⟨fun m hm => ⟨_, hrun m, ?_⟩, _, hrun n, ?_⟩
  · obtain ⟨hinvm, hremaining⟩ := hcount m
    rw [Nat.div_eq_of_lt (by omega), Nat.sub_zero] at hremaining
    exact eq_of_remainingMinutes_eq hinvm.minutes hinv.minutes hremaining
  · obtain ⟨-, hremaining⟩ := hcount n
    have hsome : remainingMinutes s.ft ≠ 0 := mt (remainingMinutes_eq_zero_iff _).1 hrunning
    rw [Nat.sub_add_cancel hfits, Nat.div_self (by omega)] at hremaining
    omega

end Sys2Proof.Machine
end

section
/-! Sequences of relay invocations (42_relay_controller.md and 43_buzzer.md, derived behaviour): a commit and the invocation after it, the
hold-off from a clear count, and the buzzer's cycle. -/

namespace Sys2Proof.Machine

/-! ### A commit -/

/-- An enabled out-of-band invocation whose count exceeds the limit flips the decision and drives its level (42_relay_controller.md R185,
R188). -/
theorem relayInvoke_of_commit {s : State} (he : s.enabled = true) (hband : outOfBand s = true)
    (hlim : holdLimit s.cfg s.ports < (increment s.cfg.holdW s.hold : Int)) :
    (relayInvoke s).active = (!s.active) ∧ (relayInvoke s).hold = increment s.cfg.holdW s.hold ∧
      (relayInvoke s).out = if s.active then !s.ports.mode else s.ports.mode := by
  rw [relayInvoke_eq_nextActive he, nextActive_of_commit hband hlim, if_pos hband]
  refine ⟨rfl, rfl, ?_⟩
  cases s.active <;> rfl

/-- An enabled out-of-band invocation whose count does not exceed the limit waits (42_relay_controller.md R185, R188). -/
theorem relayInvoke_of_wait {s : State} (he : s.enabled = true) (hband : outOfBand s = true)
    (hlim : (increment s.cfg.holdW s.hold : Int) ≤ holdLimit s.cfg s.ports) :
    (relayInvoke s).active = s.active ∧ (relayInvoke s).hold = increment s.cfg.holdW s.hold ∧
      (relayInvoke s).out = if s.active then s.ports.mode else !s.ports.mode := by
  rw [relayInvoke_eq_nextActive he, nextActive_of_wait hlim, if_pos hband]
  exact ⟨rfl, rfl, rfl⟩

/-- Whether the temperature is out of band rests on the decision, the parameters and the ports. -/
theorem outOfBand_congr {s t : State} (hactive : t.active = s.active) (hcfg : t.cfg = s.cfg) (hports : t.ports = s.ports) :
    outOfBand t = outOfBand s := by
  rw [outOfBand, outOfBand, hactive, hcfg, hports]

/-- The hold limit rests on the level of `DELAY` alone (42_relay_controller.md R183). -/
theorem holdLimit_congr (c : Params) {p p' : Ports} (h : p'.delay = p.delay) : holdLimit c p' = holdLimit c p := by
  rw [holdLimit, holdLimit, delaySample, delaySample, h]

/-- A limit that is not positive is below the next count, but for a count that wraps to 0 at a limit of 0 (42_relay_controller.md R191,
R192). -/
theorem holdLimit_lt_of_nonpos {c : Params} {p : Ports} {held : Nat}
    (h : delaySample c p < 0 ∨ (delaySample c p = 0 ∧ held ≠ 0)) : holdLimit c p < (held : Int) := by
  have hscale : (0 : Int) < 2 ^ c.delayShift := pow_pos (by decide) _
  rcases h with hneg | ⟨hzero, hheld⟩
  · exact (mul_neg_of_neg_of_pos hneg hscale).trans_le (Int.natCast_nonneg held)
  · rw [holdLimit, hzero, zero_mul]
    omega

/-! ### Waiting at constant inputs -/

/-- With the temperature held out of band, the first `n` invocations up to the limit count and keep the decision. -/
theorem relayInvoke_iterate_wait {s : State} (he : s.enabled = true) (hhold : s.hold = 0) (hband : outOfBand s = true)
    (hwidth : holdLimit s.cfg s.ports + 1 < ((2 ^ s.cfg.holdW : Nat) : Int)) {n : Nat} (hn : (n : Int) ≤ holdLimit s.cfg s.ports) :
    ((relayInvoke^[n] s).enabled = true ∧ (relayInvoke^[n] s).cfg = s.cfg ∧ (relayInvoke^[n] s).ports = s.ports) ∧
      (relayInvoke^[n] s).active = s.active ∧ (relayInvoke^[n] s).hold = n ∧
      (0 < n → (relayInvoke^[n] s).out = if s.active then s.ports.mode else !s.ports.mode) := by
  induction n with
  | zero => exact ⟨⟨he, rfl, rfl⟩, rfl, hhold, nofun⟩
  | succ n ih =>
    obtain ⟨⟨henabled, hcfg, hports⟩, hactive, hcount, -⟩ := ih (by omega)
    rw [Function.iterate_succ_apply']
    generalize relayInvoke^[n] s = t at henabled hcfg hports hactive hcount
    have hinc : increment t.cfg.holdW t.hold = n + 1 := by
      rw [hcfg, hcount]
      exact increment_of_lt (by omega)
    obtain ⟨ewait, ehold, eout⟩ := relayInvoke_of_wait henabled ((outOfBand_congr hactive hcfg hports).trans hband)
      (by rw [hinc, hcfg, hports]; exact hn)
    refine ⟨⟨(relayInvoke_enabled t).trans henabled, (relayInvoke_cfg t).trans hcfg, (relayInvoke_ports t).trans hports⟩,
      ewait.trans hactive, ehold.trans hinc, fun _ => ?_⟩
    rw [eout, hactive, hports]

/-! ### The buzzer's cycle -/

/-- With the constants of R220, the level driven at a count within the cycle. -/
theorem buzzerLevel_eq {c : Params} (hsettle : c.bzSettleEnd = 6000) (hbuzz : c.bzBuzzEnd = 6010) (n : Nat) (m out : Bool) :
    buzzerLevel c n m out = if 6000 < n ∧ n ≤ 6010 then !out else m := by
  rw [buzzerLevel, hsettle, hbuzz]
  rcases Nat.lt_or_ge 6000 n with h | h
  · simp [h, h.not_ge]
  · simp [h, h.not_gt]

/-- The count and the level after `n` invocations from a clear count: each buzz invocation inverts the level the one before it drove. -/
theorem relayInvoke_iterate_buzzer {s : State} (he : s.enabled = false) (hb : s.cfg.buzzer = true)
    (hsettle : s.cfg.bzSettleEnd = 6000) (hbuzz : s.cfg.bzBuzzEnd = 6010) (hcycle : s.cfg.bzCycleEnd = 6070)
    (hwidth : 6070 < 2 ^ s.cfg.pulseW) (hpulse : s.pulse = 0) (n : Nat) :
    ((relayInvoke^[n] s).enabled = false ∧ (relayInvoke^[n] s).cfg = s.cfg ∧ (relayInvoke^[n] s).ports = s.ports) ∧
      (relayInvoke^[n] s).pulse = n % 6070 ∧
      (1 ≤ n → (relayInvoke^[n] s).out =
        if 6000 < n % 6070 ∧ n % 6070 ≤ 6010 ∧ n % 2 = 1 then !s.ports.mode else s.ports.mode) := by
  induction n with
  | zero => exact ⟨⟨he, rfl, rfl⟩, hpulse, nofun⟩
  | succ n ih =>
    rw [Function.iterate_succ_apply']
    generalize relayInvoke^[n] s = t at ih
    obtain ⟨⟨henabled, hcfg, hports⟩, hcount, hout⟩ := ih
    have hinc : increment t.cfg.pulseW t.pulse = n % 6070 + 1 := by
      rw [hcfg, hcount]
      exact increment_of_lt (by omega)
    have hstep : relayInvoke t = buzzerStep t.ports.mode t :=
      relayInvoke_of_disabled_buzzer henabled (by rw [hcfg]; exact hb)
    refine ⟨⟨(relayInvoke_enabled t).trans henabled, (relayInvoke_cfg t).trans hcfg, (relayInvoke_ports t).trans hports⟩, ?_,
      fun _ => ?_⟩
    · rw [hstep, buzzerStep_pulse, hinc, hcfg, hcycle]
      split <;> omega
    · rw [hstep, buzzerStep_out, hinc, hcfg, hports, buzzerLevel_eq hsettle hbuzz]
      by_cases hbuzzing : 6000 < n % 6070 + 1 ∧ n % 6070 + 1 ≤ 6010
      · have hflip : (6000 < (n + 1) % 6070 ∧ (n + 1) % 6070 ≤ 6010 ∧ (n + 1) % 2 = 1) ↔
            ¬(6000 < n % 6070 ∧ n % 6070 ≤ 6010 ∧ n % 2 = 1) := by omega
        rw [if_pos hbuzzing, hout (by omega), apply_ite Bool.not, Bool.not_not, if_congr hflip rfl rfl, ite_not]
      · rw [if_neg hbuzzing, if_neg (by omega)]

/-! ### The statements -/

/-- Settles O25: a commit by `relayInvoke_of_commit`, and the next invocation is a second one, from the count the first left. -/
theorem commitLeavesHoldAndMayReflip : Obligations.CommitLeavesHoldAndMayReflip := by
  unfold Obligations.CommitLeavesHoldAndMayReflip
  intro s p he hband hlim hwidth hdelay
  have hinc : increment s.cfg.holdW s.hold = s.hold + 1 := increment_of_lt (by omega)
  obtain ⟨eactive, ehold, -⟩ := relayInvoke_of_commit he hband (by omega)
  refine ⟨eactive, ehold.trans hinc, fun hband' => ?_⟩
  have hinc' : increment (relayInvoke s).cfg.holdW (relayInvoke s).hold = s.hold + 2 := by
    rw [relayInvoke_cfg, ehold, hinc]
    exact increment_of_lt hwidth
  have hlim' : holdLimit (relayInvoke s).cfg p < (increment (relayInvoke s).cfg.holdW (relayInvoke s).hold : Int) := by
    rw [hinc', relayInvoke_cfg, holdLimit_congr s.cfg hdelay]
    omega
  obtain ⟨eactive', ehold', -⟩ := relayInvoke_of_commit (s := { relayInvoke s with ports := p })
    ((relayInvoke_enabled s).trans he) hband' hlim'
  exact ⟨eactive'.trans (by rw [eactive, Bool.not_not]), ehold'.trans hinc'⟩

/-- Settles O27: the invocation is a commit by `holdLimit_lt_of_nonpos`. -/
theorem nonPositiveDelayCommitsAtOnce : Obligations.NonPositiveDelayCommitsAtOnce := by
  unfold Obligations.NonPositiveDelayCommitsAtOnce
  intro s he hband hdelay
  obtain ⟨eactive, -, eout⟩ := relayInvoke_of_commit he hband (holdLimit_lt_of_nonpos hdelay)
  exact ⟨eactive, eout⟩

/-- Settles O28: the wait by `relayInvoke_iterate_wait`, and a commit from the count it reaches at the limit. -/
theorem holdOffLastsLimitPlusOne : Obligations.HoldOffLastsLimitPlusOne := by
  unfold Obligations.HoldOffLastsLimitPlusOne
  intro s he hhold hband hlim hwidth
  refine ⟨fun n hn => (relayInvoke_iterate_wait he hhold hband hwidth hn).2, ?_⟩
  have hlast : ((holdLimit s.cfg s.ports).toNat : Int) = holdLimit s.cfg s.ports := Int.toNat_of_nonneg hlim
  obtain ⟨⟨henabled, hcfg, hports⟩, hactive, hcount, -⟩ := relayInvoke_iterate_wait he hhold hband hwidth hlast.le
  rw [Function.iterate_succ_apply']
  generalize relayInvoke^[(holdLimit s.cfg s.ports).toNat] s = t at henabled hcfg hports hactive hcount
  have hinc : increment t.cfg.holdW t.hold = (holdLimit s.cfg s.ports).toNat + 1 := by
    rw [hcfg, hcount]
    exact increment_of_lt (by omega)
  obtain ⟨eactive, -, eout⟩ := relayInvoke_of_commit henabled ((outOfBand_congr hactive hcfg hports).trans hband)
    (by rw [hinc, hcfg, hports]; omega)
  rw [eactive, eout, hactive, hports]
  exact ⟨rfl, rfl⟩

/-- Settles O29, by the count and the level after `n` invocations. -/
theorem buzzerCycleIs6070Invocations : Obligations.BuzzerCycleIs6070Invocations := by
  unfold Obligations.BuzzerCycleIs6070Invocations
  intro s n he hb hsettle hbuzz hcycle hwidth hpulse hn
  obtain ⟨-, ecount, eout⟩ := relayInvoke_iterate_buzzer he hb hsettle hbuzz hcycle hwidth hpulse n
  exact ⟨ecount, eout hn⟩

end Sys2Proof.Machine
end

section
/-! The register window under commands and refused accesses (20_memory.md): the bits of STATUS, which registers a command can change, and
the accesses that get no step. -/

namespace Sys2Proof.Machine

/-! ### The STATUS word -/

/-- Five flags laid out as bits 0 to 4 (20_memory.md R62). -/
theorem testBit_flags (a b c d e : Bool) :
    let n := a.toNat + 2 * b.toNat + 4 * c.toNat + 8 * d.toNat + 16 * e.toNat
    n < 32 ∧ n.testBit 0 = a ∧ n.testBit 1 = b ∧ n.testBit 2 = c ∧ n.testBit 3 = d ∧ n.testBit 4 = e := by
  revert a b c d e
  decide

/-- STATUS shows its five flags, and 0 above them. -/
theorem statusWord_getLsbD (s : State) :
    (statusWord s).getLsbD 0 = s.enabled ∧ (statusWord s).getLsbD 1 = s.active ∧ (statusWord s).getLsbD 2 = s.out ∧
      (statusWord s).getLsbD 3 = ftActive s.ft ∧ (statusWord s).getLsbD 4 = s.cfg.buzzer ∧
      ∀ k, 5 ≤ k → (statusWord s).getLsbD k = false := by
  obtain ⟨hlt, h0, h1, h2, h3, h4⟩ := testBit_flags s.enabled s.active (relayOut s) (ftActive s.ft) (buzzerPresent s)
  simp only [statusWord, BitVec.getLsbD_ofNat, h0, h1, h2, h3, h4]
  refine ⟨rfl, rfl, rfl, rfl, rfl, fun k hk => ?_⟩
  rw [Nat.testBit_lt_two_pow (hlt.trans_le (Nat.pow_le_pow_right (by decide) hk : 2 ^ 5 ≤ 2 ^ k)), Bool.and_false]

/-! ### The registers a command can change -/

/-- The registers that show `UP` (20_memory.md R61). -/
def uptimeRegisters : List RegName := [.uptime, .upTicks, .upSeconds, .upMinutes, .upHours, .upDays]

/-- The registers that show `FT` (20_memory.md R61, R62). -/
def timerRegisters : List RegName := [.ftimer, .status, .ftHours, .ftMinutes]

/-- What a register shows rests on the parameters and on the state behind it alone. -/
theorem registerValue_congr {r : RegName} {s t : State} (hcfg : t.cfg = s.cfg) (hup : r ∈ uptimeRegisters → t.up = s.up)
    (hft : r ∈ timerRegisters → t.ft = s.ft) (hphase : r = .ftphase → t.phase = s.phase)
    (hstatus : r = .status → t.enabled = s.enabled ∧ t.active = s.active ∧ t.out = s.out)
    (hhold : r = .hold → t.hold = s.hold) (hpulse : r = .pulse → t.pulse = s.pulse) : registerValue r t = registerValue r s := by
  cases r with
  | cmd | reserved1C | reserved3C => rfl
  | uptime | upTicks | upSeconds | upMinutes | upHours | upDays => rw [registerValue, hup (by decide), registerValue]
  | ftimer | ftHours | ftMinutes => rw [registerValue, hft (by decide), registerValue]
  | ftphase => rw [registerValue, hphase rfl, registerValue]
  | hold => rw [registerValue, hhold rfl, registerValue]
  | pulse => rw [registerValue, hpulse rfl, hcfg, registerValue]
  | status =>
    obtain ⟨henabled, hactive, hout⟩ := hstatus rfl
    rw [registerValue, registerValue, statusWord, statusWord, relayOut, relayOut, buzzerPresent, buzzerPresent, henabled, hactive,
      hout, hft (by decide), hcfg]

/-- The registers a command can change (20_memory.md, the register map). -/
def writtenRegisters : Instr → List RegName
  | .nop => []
  | .tick => uptimeRegisters ++ timerRegisters ++ [.hold, .pulse]
  | .clkReset => uptimeRegisters
  | .ftStart _ => .ftphase :: timerRegisters
  | .ftStop => timerRegisters
  | .rlyEnable => [.status]
  | .rlyDisable => [.status]

/-- A performed command leaves every register outside its list. -/
theorem registerValue_effectOf {i : Instr} {r : RegName} (hr : r ∉ writtenRegisters i) (s : State) :
    registerValue r (effectOf i s) = registerValue r s := by
  cases i with
  | nop => rfl
  | tick =>
    have hfree : ∀ q ∈ uptimeRegisters ++ timerRegisters ++ [.hold, .pulse], r ≠ q := fun q hq h => hr (h ▸ hq)
    exact registerValue_congr (tickOperation_cfg s) (fun h => absurd rfl (hfree r (by simp [h])))
      (fun h => absurd rfl (hfree r (by simp [h]))) (fun _ => tickOperation_phase s) (fun h => absurd h (hfree _ (by decide)))
      (fun h => absurd h (hfree _ (by decide))) (fun h => absurd h (hfree _ (by decide)))
  | clkReset =>
    exact registerValue_congr rfl (fun h => absurd h hr) (fun _ => rfl) (fun _ => rfl) (fun _ => ⟨rfl, rfl, rfl⟩) (fun _ => rfl)
      (fun _ => rfl)
  | ftStart d =>
    exact registerValue_congr rfl (fun _ => rfl) (fun h => absurd (List.mem_cons_of_mem _ h) hr)
      (fun h => absurd (h ▸ List.mem_cons_self) hr) (fun _ => ⟨rfl, rfl, rfl⟩) (fun _ => rfl) (fun _ => rfl)
  | ftStop =>
    exact registerValue_congr rfl (fun _ => rfl) (fun h => absurd h hr) (fun _ => rfl) (fun _ => ⟨rfl, rfl, rfl⟩) (fun _ => rfl)
      (fun _ => rfl)
  | rlyEnable | rlyDisable =>
    exact registerValue_congr rfl (fun _ => rfl) (fun _ => rfl) (fun _ => rfl) (fun h => absurd (List.mem_singleton.2 h) hr)
      (fun _ => rfl) (fun _ => rfl)

/-- A command leaves what a read of a register outside its list answers, at either level of `rst_n`. -/
theorem readRegister_exec {i : Instr} {r : RegName} (hr : r ∉ writtenRegisters i) {s t : State} (h : exec i s = .next t) :
    readRegister r t = readRegister r s := by
  have hquiet : readRegister r s.quiet = readRegister r s := readRegister_congr_record r s s.inbox [] none
  obtain ⟨-, rfl⟩ := (exec_next_iff i s t).1 h
  split
  case isFalse => exact hquiet
  case isTrue hrst =>
    rw [readRegister_of_rstN r ((effectOf_rstN i s.quiet).trans hrst), registerValue_effectOf hr, ← hquiet]
    exact (readRegister_of_rstN r (s := s.quiet) hrst).symm

/-- No command moves the window. -/
theorem exec_cfg {i : Instr} {s t : State} (h : exec i s = .next t) : t.cfg = s.cfg := by
  obtain ⟨-, rfl⟩ := (exec_next_iff i s t).1 h
  split
  · exact effectOf_cfg i s.quiet
  · rfl

/-! ### Accesses without a step -/

/-- A host access is served on the state without it. -/
theorem step_access (a : Access) {s : State} {rest : List Arrival} (hl : s.cfg.legal = true) (hin : s.inbox = .access a :: rest) :
    step s = serveAccess a { s with inbox := rest } := by
  rw [step_legal hl, serveNext, hin]
  rfl

/-- An access that is not admitted at its address gets the same stop as a read and as a write. -/
theorem step_access_of_admitAccess {s : State} {addr : Nat} {size : AccessSize} {data : Word} {rest : List Arrival} {stop : Result}
    (hl : s.cfg.legal = true)
    (hin : s.inbox = .access (.read addr size) :: rest ∨ s.inbox = .access (.write addr size data) :: rest)
    (h : ∀ k, admitAccess addr size { s with inbox := rest } k = stop) : step s = stop := by
  rcases hin with hin | hin <;> rw [step_access _ hl hin] <;> exact h _

/-! ### The statements -/

/-- Settles O36: the bits by `statusWord_getLsbD`; after power-on every flag but `BUZZER_PRESENT` is 0. -/
theorem statusBitsReadAsLaidOut : Obligations.StatusBitsReadAsLaidOut := by
  unfold Obligations.StatusBitsReadAsLaidOut
  refine ⟨fun s hrst => ?_, fun c p => ?_⟩
  · rw [readRegister_of_rstN .status hrst]
    exact statusWord_getLsbD s
  · rw [readRegister_of_rstN .status rfl, registerValue, statusWord]
    have hbuzzer : buzzerPresent (State.powerOn c p) = c.buzzer := rfl
    rw [hbuzzer]
    cases c.buzzer <;> rfl

/-- Settles O38: a byte of the window is a lane of its register, and outside the window there is none. -/
theorem commandsLeaveOtherWindowBytes : Obligations.CommandsLeaveOtherWindowBytes := by
  unfold Obligations.CommandsLeaveOtherWindowBytes
  intro uptimeRegs timerRegs written i s t hexec addr hfree
  rw [readByte, readByte, exec_cfg hexec]
  cases hoff : windowOffset s.cfg addr with
  | none => rfl
  | some off =>
    have hr : regAt off ∉ writtenRegisters i := by
      have hlist : written i = writtenRegisters i := by cases i <;> rfl
      exact hlist ▸ hfree off hoff
    rw [Option.map_some, Option.map_some, readRegister_exec hr hexec]

/-- Settles O39: the offset of the address is in the window, and the size is looked at before the alignment. -/
theorem narrowAndMisalignedAccessesAreRefused : Obligations.NarrowAndMisalignedAccessesAreRefused := by
  unfold Obligations.NarrowAndMisalignedAccessesAreRefused
  intro s addr size data rest hl hlo hhi hin
  have hoff : windowOffset s.cfg addr = some (addr - s.cfg.base) := (windowOffset_eq_some _ _ _).2 ⟨by omega, by omega⟩
  refine ⟨fun hsize => step_access_of_admitAccess hl hin fun k => ?_,
    fun hsize haligned => step_access_of_admitAccess hl hin fun k => ?_⟩
  · simp only [admitAccess, hoff, if_neg hsize]
  · simp only [admitAccess, hoff, if_pos hsize, if_neg haligned]

/-- Settles O40: an address outside the window has no offset. -/
theorem accessOutsideWindowFaults : Obligations.AccessOutsideWindowFaults := by
  unfold Obligations.AccessOutsideWindowFaults
  intro s addr size data rest hl hout hin
  have hoff : windowOffset s.cfg addr = none := (windowOffset_eq_none _ _).2 hout
  exact step_access_of_admitAccess hl hin fun k => by simp only [admitAccess, hoff]

end Sys2Proof.Machine
end

section
/-! The writers of the registers over commands (10_state.md), and runs that never stop (60_exceptions.md). -/

namespace Sys2Proof.Machine

/-! ### The writers of the registers -/

/-- Only TICK, FT_STOP and FT_START write `FT` (10_state.md R27). -/
theorem exec_ft_writers {i : Instr} {s t : State} (h : exec i s = .next t) (hne : t.ft ≠ s.ft) :
    i = .tick ∨ i = .ftStop ∨ ∃ d, i = .ftStart d := by
  obtain ⟨-, rfl⟩ := (exec_next_iff i s t).1 h
  split at hne
  case isFalse => exact absurd (quiet_ft s) hne
  cases i with
  | tick => exact .inl rfl
  | ftStop => exact .inr (.inl rfl)
  | ftStart d => exact .inr (.inr ⟨d, rfl⟩)
  | nop | clkReset | rlyEnable | rlyDisable => exact absurd rfl hne

/-- Only FT_START writes `PHASE` (10_state.md R29). -/
theorem exec_phase_writers {i : Instr} {s t : State} (h : exec i s = .next t) (hne : t.phase ≠ s.phase) : ∃ d, i = .ftStart d := by
  obtain ⟨-, rfl⟩ := (exec_next_iff i s t).1 h
  split at hne
  case isFalse => exact absurd (quiet_phase s) hne
  cases i with
  | ftStart d => exact ⟨d, rfl⟩
  | tick => exact absurd (tickOperation_phase s.quiet) hne
  | nop | clkReset | ftStop | rlyEnable | rlyDisable => exact absurd rfl hne

/-- A TICK clears `ENABLED` at an expiry and keeps it otherwise (44_dispatcher.md R244). -/
theorem tickOperation_quiet_enabled (s : State) :
    (tickOperation s.quiet).enabled = if nextExpires s then false else s.enabled := by
  rw [tickOperation_quiet, fanOutStep, runTask_enabled]
  rfl

/-- Only RLY_ENABLE sets `ENABLED`; RLY_DISABLE and an expiry TICK clear it (10_state.md R31). -/
theorem exec_enabled_writers {i : Instr} {s t : State} (h : exec i s = .next t) (hne : t.enabled ≠ s.enabled) :
    (i = .rlyEnable ∧ t.enabled = true) ∨ (i = .rlyDisable ∧ t.enabled = false) ∨
      (i = .tick ∧ nextExpires s = true ∧ t.enabled = false) := by
  obtain ⟨-, rfl⟩ := (exec_next_iff i s t).1 h
  split at hne
  case isFalse => exact absurd (quiet_enabled s) hne
  case isTrue hrst =>
    rw [if_pos hrst]
    cases i with
    | rlyEnable => exact .inl ⟨rfl, rfl⟩
    | rlyDisable => exact .inr (.inl ⟨rfl, rfl⟩)
    | tick =>
      have henabled := tickOperation_quiet_enabled s
      rw [effectOf, henabled] at hne ⊢
      split at hne
      case isTrue hexp => exact .inr (.inr ⟨rfl, hexp, if_pos hexp⟩)
      case isFalse => exact absurd rfl hne
    | nop | clkReset | ftStart | ftStop => exact absurd rfl hne

/-- Only a TICK that selects RELAY writes the relay state (10_state.md R32 to R35). -/
theorem exec_relay_writers {i : Instr} {s t : State} (h : exec i s = .next t) (hno : ¬(i = .tick ∧ nextTask s = .relay)) :
    t.active = s.active ∧ t.hold = s.hold ∧ t.pulse = s.pulse ∧ t.out = s.out := by
  by_cases hi : i = .tick
  case neg => exact exec_keeps_relay hi h
  subst hi
  obtain ⟨-, rfl⟩ := (exec_next_iff _ s t).1 h
  split
  · rw [effectOf, tickOperation_quiet]
    exact runTask_keeps_relay (fun htask => hno ⟨rfl, htask⟩) (beforeFanOut s)
  · exact ⟨rfl, rfl, rfl, rfl⟩

/-- In the basic variant a relay invocation leaves `PULSE` (10_state.md R34). -/
theorem relayInvoke_pulse_of_basic {s : State} (hb : s.cfg.buzzer = false) : (relayInvoke s).pulse = s.pulse := by
  cases he : s.enabled with
  | true => rw [relayInvoke_eq_nextActive he, hb]; rfl
  | false => rw [relayInvoke_of_disabled_basic he hb]

/-- In the basic variant no command writes `PULSE` (10_state.md R34). -/
theorem exec_pulse_of_basic {i : Instr} {s t : State} (hb : s.cfg.buzzer = false) (h : exec i s = .next t) :
    t.pulse = s.pulse := by
  by_cases hno : i = .tick ∧ nextTask s = .relay
  case neg => exact (exec_relay_writers h hno).2.2.1
  obtain ⟨rfl, htask⟩ := hno
  have hselected : selectedTask (beforeFanOut s) = .relay := htask
  obtain ⟨-, rfl⟩ := (exec_next_iff _ s t).1 h
  split
  · rw [effectOf, tickOperation_quiet, fanOutStep_of_relay hselected]
    exact relayInvoke_pulse_of_basic (s := beforeFanOut s) hb
  · rfl

/-! ### Admitted arrivals -/

/-- An admitted access is a word access at a register. -/
theorem exists_register_of_admitted {c : Params} {a : Access} (h : admitted c a = true) :
    ∃ r, a = .read (c.base + offsetOf r) .word ∨ ∃ data, a = .write (c.base + offsetOf r) .word data := by
  cases a with
  | read addr size =>
    obtain ⟨hlo, hhi, rfl, haligned⟩ := of_decide_eq_true h
    obtain ⟨r, rfl⟩ := exists_register_of_aligned hlo hhi haligned
    exact ⟨r, .inl rfl⟩
  | write addr size data =>
    obtain ⟨hlo, hhi, rfl, haligned⟩ := of_decide_eq_true h
    obtain ⟨r, rfl⟩ := exists_register_of_aligned hlo hhi haligned
    exact ⟨r, .inr ⟨data, rfl⟩⟩

/-- The requests that reach the block are admitted, under a legal configuration. -/
structure Serviceable (s : State) : Prop where
  legal : s.cfg.legal = true
  arrivals : ∀ a ∈ s.inbox, arrivalAdmitted s.cfg a = true

/-- Taking arrivals off, or putting admitted ones in front, leaves a state whose requests are admitted. -/
theorem Serviceable.of_eq {s t : State} (h : Serviceable s) (hcfg : t.cfg = s.cfg)
    (hin : ∀ a ∈ t.inbox, arrivalAdmitted s.cfg a = true) : Serviceable t where
  legal := hcfg ▸ h.legal
  arrivals := hcfg ▸ hin

/-- An admitted access is served in one step, which takes it off. -/
theorem step_of_admitted {s : State} {a : Access} {rest : List Arrival} (hl : s.cfg.legal = true)
    (hin : s.inbox = .access a :: rest) (h : admitted s.cfg a = true) :
    ∃ t, step s = .next t ∧ t.cfg = s.cfg ∧ t.inbox = rest := by
  obtain ⟨r, rfl | ⟨data, rfl⟩⟩ := exists_register_of_admitted h
  · exact ⟨_, step_read_register r hl hin, rfl, rfl⟩
  · rw [step_write_register r data hl hin]
    split
    · rw [perform]
      cases decode data with
      | op i => exact exec_completes i (s := { s with inbox := rest }) hl
      | noOperation opc => exact exec_completes .nop (s := { s with inbox := rest }) hl
    · exact ⟨_, rfl, rfl, rfl⟩

/-- Whatever admitted request comes next, the step answers a next state, whose requests are admitted too. -/
theorem Serviceable.step {s : State} (h : Serviceable s) : ∃ t, step s = .next t ∧ Serviceable t := by
  have hl := h.legal
  rcases hin : s.inbox with - | ⟨a, rest⟩
  · refine ⟨s.quiet, ?_, h.of_eq rfl h.arrivals⟩
    rw [step_legal hl, serveNext, hin]
  have harrivals := h.arrivals
  rw [hin] at harrivals
  obtain ⟨ha, hrest⟩ := List.forall_mem_cons.1 harrivals
  have hserve : Machine.step s = serve a { s with inbox := rest } := by rw [step_legal hl, serveNext, hin]
  cases a with
  | tickIn =>
    obtain ⟨t, hexec, hcfg, hinbox⟩ := exec_completes .tick (s := { s with inbox := rest }) hl
    exact ⟨t, hserve.trans hexec, h.of_eq hcfg (by rw [hinbox]; exact hrest)⟩
  | tickInWith acc =>
    obtain ⟨t, hexec, hcfg, hinbox⟩ := exec_completes .tick (s := { s with inbox := .access acc :: rest }) hl
    exact ⟨t, hserve.trans hexec, h.of_eq hcfg (by rw [hinbox]; exact List.forall_mem_cons.2 ⟨ha, hrest⟩)⟩
  | access acc =>
    obtain ⟨t, hstep, hcfg, rfl⟩ := step_of_admitted hl hin ha
    exact ⟨t, hstep, h.of_eq hcfg hrest⟩
  | drive p => exact ⟨_, hserve, h.of_eq rfl hrest⟩
  | resetPin level =>
    have hcfg : (setResetPin level { s with inbox := rest }).cfg = s.cfg := by
      unfold setResetPin
      split <;> rfl
    exact ⟨_, hserve, h.of_eq hcfg (by rw [setResetPin_inbox]; exact hrest)⟩

/-- Runs of admitted requests answer a next state at every length. -/
theorem Serviceable.run {s : State} (h : Serviceable s) (n : Nat) : ∃ t, run n s = .next t := by
  induction n generalizing s with
  | zero => exact ⟨s, rfl⟩
  | succ n ih =>
    obtain ⟨t, hstep, ht⟩ := h.step
    rw [run_succ_of_next hstep]
    exact ih ht

/-! ### The statements -/

/-- Settles O56, register by register. -/
theorem registersHaveTheirWriters : Obligations.RegistersHaveTheirWriters := by
  unfold Obligations.RegistersHaveTheirWriters
  intro i s t h
  refine ⟨exec_ft_writers h, exec_phase_writers h, fun hoff hon => ?_, fun hon hoff => ?_, fun hne => ?_,
    fun hb => exec_pulse_of_basic hb h⟩
  · obtain ⟨hi, -⟩ | ⟨-, hclear⟩ | ⟨-, -, hclear⟩ := exec_enabled_writers h (by rw [hoff, hon]; exact nofun)
    · exact hi
    · exact absurd (hon.symm.trans hclear) nofun
    · exact absurd (hon.symm.trans hclear) nofun
  · obtain ⟨-, hset⟩ | ⟨hi, -⟩ | ⟨hi, hexp, -⟩ := exec_enabled_writers h (by rw [hoff, hon]; exact nofun)
    · exact absurd (hset.symm.trans hoff) nofun
    · exact .inl hi
    · exact .inr ⟨hi, hexp⟩
  · by_contra hno
    obtain ⟨hactive, hhold, hpulse, hout⟩ := exec_relay_writers h hno
    rcases hne with hne | hne | hne | hne
    · exact hne hactive
    · exact hne hhold
    · exact hne hpulse
    · exact hne hout

/-- Settles O58: the commands by `exec_completes`, the runs by `Serviceable.run`. -/
theorem admittedRequestsNeverStop : Obligations.AdmittedRequestsNeverStop := by
  unfold Obligations.AdmittedRequestsNeverStop
  refine ⟨fun i s hl => ?_, fun s n hl hadmitted => Serviceable.run ⟨hl, hadmitted⟩ n⟩
  obtain ⟨t, h, -⟩ := exec_completes i hl
  exact ⟨t, h⟩

end Sys2Proof.Machine
end
